-- ==== Sys2Proof/Word.lean ====
section
/-!
DEFINITION. The word types of the block: an 8-bit byte (an `LcdByte`, a text or request byte), a 4-bit nibble,
a 32-bit register word, and a valid pin number (spec/00_scope.md R7, R11; spec/10_state.md R21, R28).
-/

namespace Sys2Proof

/-- Eight bits: a command, a character or a byte of a request. -/
abbrev Byte := BitVec 8

/-- Half of a byte, as one Enable toggle latches it (30 R101). -/
abbrev Nibble := BitVec 4

/-- The value of one device register (20 R64). -/
abbrev Reg32 := BitVec 32

/-- A valid `PinId`: 0 to 53, `NPINS = 54` (00 R7). -/
abbrev Pin := Fin 54

end Sys2Proof
end

