-- ==== Sys2Proof/Config.lean ====
section
/-!
DEFINITION. The parameters of the block (spec/00_scope.md R7 to R10), its constants, and the free values: what the
spec leaves open and no proof can see. The parameters are a record, `Config`; a state carries one and no step
changes it (log 1), so that a statement about every state is a statement about every admissible parameter set.
-/

namespace Sys2Proof

/-- The nine pins of the block, `PinSet` (00 R8). Each is in 0..53 by its type. -/
structure PinMap where
  d4 : Pin
  d5 : Pin
  d6 : Pin
  d7 : Pin
  rs : Pin
  rw : Pin
  e : Pin
  led : Pin
  button : Pin
  deriving DecidableEq, Repr

/-- The eight output pins, in the order 43 R222 lists them. -/
def PinMap.outputs (m : PinMap) : List Pin :=
  [m.rs, m.rw, m.e, m.d4, m.d5, m.d6, m.d7, m.led]

/-- The seven pins the display is wired to (60 R302). -/
def PinMap.lcd (m : PinMap) : List Pin :=
  [m.rs, m.rw, m.e, m.d4, m.d5, m.d6, m.d7]

/-- All nine pins. -/
def PinMap.all (m : PinMap) : List Pin :=
  m.outputs ++ [m.button]

/-- The named parameters of 00 R8, which a model takes as configuration fields. -/
structure Config where
  pins : PinMap
  /-- `GPIO_BASE`: no rule depends on it (00 R9). -/
  gpioBase : Nat
  /-- `BLOCK_SPAN`, in bytes. -/
  blockSpan : Nat
  /-- `OFF_FSEL(k)`. -/
  offFsel : Vector Nat 6
  /-- `OFF_SET(j)`. -/
  offSet : Vector Nat 2
  /-- `OFF_CLR(j)`. -/
  offClr : Vector Nat 2
  /-- `OFF_LEV(j)`. -/
  offLev : Vector Nat 2
  /-- `FSEL_OUTPUT`, in 1..7. -/
  fselOutput : BitVec 3
  /-- `LINE_WIDTH`, a positive integer used by no rule (92 D26). -/
  lineWidth : Nat
  deriving DecidableEq, Repr

/-- Every register offset, in the order of the table of 20 R61. -/
def Config.offsets (c : Config) : List Nat :=
  c.offFsel.toList ++ c.offSet.toList ++ c.offClr.toList ++ c.offLev.toList

/-- The constraints of 00 R8: pins pairwise distinct (premise `PinMapValid`, 70 R325), offsets distinct, word-aligned
and inside the span, the output code not the input code, a positive line width. -/
def Config.valid (c : Config) : Bool :=
  decide c.pins.all.Nodup && decide c.offsets.Nodup &&
    c.offsets.all (fun o => o % 4 == 0 && o + 4 ≤ c.blockSpan) &&
    c.fselOutput != 0 && decide (0 < c.lineWidth)

/-- The illustrative pin assignment of 95 ("TV pin map"). -/
def PinMap.tv : PinMap :=
  { d4 := 10, d5 := 11, d6 := 12, d7 := 13, rs := 7, rw := 8, e := 9, led := 21, button := 20 }

/-- The values 00 R9 supplies, with the TV pin map where the spec gives no value. DESIGN CHOICE, log 1. -/
def Config.default : Config :=
  { pins := PinMap.tv
    gpioBase := 0x20200000
    blockSpan := 0x3C
    offFsel := #v[0x00, 0x04, 0x08, 0x0C, 0x10, 0x14]
    offSet := #v[0x1C, 0x20]
    offClr := #v[0x28, 0x2C]
    offLev := #v[0x34, 0x38]
    fselOutput := 1
    lineWidth := 16 }

/-- `FSEL_INPUT`, "input is function code 0" (00 R7, 30 R91). -/
def fselInputCode : BitVec 3 := 0

/-- `T_NIBBLE_SETTLE` in microseconds (00 R7). -/
def tNibbleSettle : Nat := 500

/-- `T_POST_CLEAR_SETTLE` in microseconds (00 R7). -/
def tPostClearSettle : Nat := 500

/-- `T_PRE_RENDER_SETTLE` in microseconds (00 R7). -/
def tPreRenderSettle : Nat := 500000

/-- `INIT_SEQ`, the six command bytes of `INIT` in order (00 R7, 30 R105; 90 C4 keeps the second 0x06). -/
def initSeq : Vector Byte 6 := #v[0x33, 0x32, 0x06, 0x0C, 0x06, 0x01]

/-- `MAX_TEXT`: the most characters a request may render (00 R7). -/
def maxText : Nat := 16

/-- `REQ_BUF`: the most bytes of a request that reach the core (00 R7). -/
def reqBuf : Nat := 32

/-- Free value: the level the outside world puts on each pin at the `n`-th draw, when the state lists no coming
level (10 R23, "under no law"). Log 5. -/
opaque Config.freeExt : Nat → BitVec 54

/-- Free value: what the spec leaves unspecified in a level: the level and pad of a pin with an alternate-function code
(10 R24, R25), the pad of an undriven pin at a latch event, and the level bits of no pin (20 R68). Bit `p` is for
pin `p`. Log 6. -/
opaque Config.freeLevel : Nat → BitVec 64

/-- Free value: by how much the `n`-th delay exceeds its minimum (60 R300, 93 U12). Log 7. -/
opaque Config.freeOverrun : Nat → Nat

end Sys2Proof
end

