-- ==== Sys2Proof/Syntax.lean ====
section
/-!
DEFINITION. The instructions of the model: one constructor per row of spec/opcode_table.json, with the operands the rule
of the row gives it, and the form in which an instruction is presented (`Presented`): the name of its format
(spec/30_encoding.md R90) and its bytes.
-/

namespace Sys2Proof

/-- `PinDirection`, "enumeration {Input, Output}" (00 R14). -/
inductive PinDirection where
  | input
  | output
  deriving DecidableEq, Repr

/-- The tag of an `LcdByte` (10 R28): Command is 0 and puts RS low, Character is 1 and puts RS high (30 R100). -/
inductive Mode where
  | command
  | character
  deriving DecidableEq, Repr

/-- The `MODE` bit (30 R100). -/
def Mode.bit : Mode → Bool
  | .command => false
  | .character => true

/-- The direction of a register access, with the word a write carries (20 R64, always 32 bits). -/
inductive Access where
  | read
  | write (v : Reg32)
  deriving DecidableEq, Repr

/-- One constructor per row of the opcode table. Pin operands and counts are natural numbers, because an operand out of
range is presented and refused by name (60 R289). -/
inductive Instr where
  -- format OP (30 R120)
  | configure (pins : List Nat) (dir : PinDirection)
  | set (p : Nat) (level : Bool)
  | read (p : Nat)
  | transmit (b : Byte) (m : Mode)
  | writeCommand (b : Byte)
  | writeChar (b : Byte)
  | init
  | writeText (t : List Byte) (n : Nat)
  | configureAll
  | ledSet (level : Bool)
  | buttonRead
  | render (t : List Byte) (n : Nat)
  | activate (mappedOk : Bool)
  | deactivate
  | readReq
  | writeReq (bytes : List Byte)
  -- format LCDW (30 R100)
  | lcdCommand (b : Byte)
  | lcdChar (b : Byte)
  | init0
  | init1
  | init2
  | init3
  | init4
  | init5
  | notSent28
  -- format REGACC (30 R95)
  | gpfsel0 (a : Access)
  | gpfsel1 (a : Access)
  | gpfsel2 (a : Access)
  | gpfsel3 (a : Access)
  | gpfsel4 (a : Access)
  | gpfsel5 (a : Access)
  | gpset0 (a : Access)
  | gpset1 (a : Access)
  | gpclr0 (a : Access)
  | gpclr1 (a : Access)
  | gplev0 (a : Access)
  | gplev1 (a : Access)
  -- format FSELF (30 R91, R92)
  | fselInput
  | fselOutput
  | fselAlt2
  | fselAlt3
  | fselAlt4
  | fselAlt5
  | fselAlt6
  | fselAlt7
  | fselPlace (p : Nat) (code : BitVec 3)
  -- format PINBIT (30 R94)
  | pinBit (p : Nat)
  -- format NIB (30 R103)
  | latchSample
  -- format WIRE (30 R110, R111)
  | wireReadResp (d : Bool)
  | wireWriteReq (bytes : List Byte)
  deriving DecidableEq, Repr

/-- The formats of 30 R90. `WIRE` is two texts that travel in opposite directions, so it has two names here. -/
inductive Format where
  | op
  | lcdw
  | regacc
  | fself
  | pinbit
  | nib
  | wireResponse
  | wireRequest
  deriving DecidableEq, Repr

/-- An instruction as it is presented to the block: the format its bytes are read in, and the bytes, first byte first. -/
structure Presented where
  fmt : Format
  bytes : List Byte
  deriving DecidableEq, Repr

end Sys2Proof
end

