-- ==== Sys2Proof/WellFormed.lean ====
section
/-!
DEFINITION. Well-formed instructions: those whose operands the presented form of Sys2Proof/Decode.lean can carry (log 9).
Whether a pin or a count is one the block accepts is not asked here: the operation itself refuses it
(spec/60_exceptions.md R289).
-/

namespace Sys2Proof

/-- A set of pins in its one written form: strictly rising (40 R131, "a finite set of PinId"). -/
def risingPins : List Nat → Bool
  | [] => true
  | [_] => true
  | p :: q :: r => decide (p < q) && risingPins (q :: r)

/-- Every operand fits the bytes that carry it, and a set of pins is written in its one form. -/
def Instr.wellFormed : Instr → Bool
  | .configure pins _ => risingPins pins && pins.all (fun p => decide (p < 256)) && decide (pins.length < 256)
  | .set p _ => decide (p < 256)
  | .read p => decide (p < 256)
  | .writeText _ n => decide (n < 256)
  | .render _ n => decide (n < 256)
  | .fselPlace p _ => decide (p < 256)
  | .pinBit p => decide (p < 256)
  | .transmit _ _ | .writeCommand _ | .writeChar _ | .init | .configureAll | .ledSet _ | .buttonRead
  | .activate _ | .deactivate | .readReq | .writeReq _ | .lcdCommand _ | .lcdChar _ | .init0 | .init1 | .init2 | .init3 | .init4
  | .init5 | .notSent28 | .gpfsel0 _ | .gpfsel1 _ | .gpfsel2 _ | .gpfsel3 _ | .gpfsel4 _ | .gpfsel5 _ | .gpset0 _
  | .gpset1 _ | .gpclr0 _ | .gpclr1 _ | .gplev0 _ | .gplev1 _ | .fselInput | .fselOutput | .fselAlt2 | .fselAlt3
  | .fselAlt4 | .fselAlt5 | .fselAlt6 | .fselAlt7 | .latchSample | .wireReadResp _ | .wireWriteReq _ => true

end Sys2Proof
end

