-- ==== Sys2Proof/Decode.lean ====
section
/-!
DEFINITION. The decoder, total on any bytes and rejecting by name, then the encoder, then the host's view of the opcode
table. The bits of a row are spec/opcode_table.json's and the rules of spec/30_encoding.md; the spec gives operands no
bits, so the bytes that carry them are the model's own (DESIGN CHOICE, log 9). After the table's bits come the operands:
a pin, a count or a flag is one byte, a register word four bytes, least significant byte first, and a text or a request,
of any length (42 R195, 44 R250), is all the bytes that are left.
-/

namespace Sys2Proof

/-- Why the bytes presented are no instruction. -/
inductive DecodeError where
  /-- The bytes end inside the instruction. -/
  | truncated
  /-- A bit outside the row's own bits is set. -/
  | reservedBits
  /-- A flag byte is neither 0 nor 1. -/
  | badFlag
  /-- The pins of a set are not strictly rising. -/
  | unsortedSet
  /-- A bus word is said to be the `INIT` byte of an index whose byte it is not, or its role byte has no meaning. -/
  | badRole
  /-- A register offset outside the table of 30 R95. -/
  | badOffset
  /-- The bytes are not the response form of 30 R110. -/
  | badResponse
  deriving DecidableEq, Repr

/-- One byte. -/
def takeByte : List Byte → Except DecodeError (Byte × List Byte)
  | [] => .error .truncated
  | b :: r => .ok (b, r)

/-- A flag byte. -/
def takeFlag : List Byte → Except DecodeError (Bool × List Byte)
  | [] => .error .truncated
  | b :: r => if b = 0 then .ok (false, r) else if b = 1 then .ok (true, r) else .error .badFlag

/-- `n` bytes. -/
def takeBytes (n : Nat) (r : List Byte) : Except DecodeError (List Byte × List Byte) :=
  if r.length < n then .error .truncated else .ok (r.take n, r.drop n)

/-- A 32-bit word, least significant byte first. -/
def takeReg : List Byte → Except DecodeError (Reg32 × List Byte)
  | b0 :: b1 :: b2 :: b3 :: r => .ok (b3 ++ (b2 ++ (b1 ++ b0)), r)
  | _ => .error .truncated

/-- `PinDirection` of a flag byte: Input 0, Output 1. -/
def dirOfFlag (b : Bool) : PinDirection := if b then .output else .input

/-- `MODE` (30 R100): 0 Command, 1 Character. -/
def modeOfFlag (b : Bool) : Mode := if b then .character else .command

/-- The operands of `CONFIGURE`: direction, number of pins, the pins in rising order. -/
def decodeConfigure (r : List Byte) : Except DecodeError (Instr × List Byte) := do
  let (d, r) ← takeFlag r
  let (n, r) ← takeByte r
  let (ps, r) ← takeBytes n.toNat r
  if risingPins (ps.map BitVec.toNat) then
    .ok (.configure (ps.map BitVec.toNat) (dirOfFlag d), r)
  else .error .unsortedSet

/-- The operands of `WRITE_TEXT` and `RENDER`: the count, then the text, which is all the bytes left. -/
def decodeText (mk : List Byte → Nat → Instr) (r : List Byte) : Except DecodeError (Instr × List Byte) := do
  let (n, t) ← takeByte r
  .ok (mk t n.toNat, [])

/-- The operands that follow the selector of 30 R120. A request is all the bytes left (44 R250). -/
def decodeOperands (sel : Nat) (r : List Byte) : Except DecodeError (Instr × List Byte) :=
  match sel with
  | 0 => decodeConfigure r
  | 1 => do
    let (p, r) ← takeByte r
    let (l, r) ← takeFlag r
    .ok (.set p.toNat l, r)
  | 2 => do
    let (p, r) ← takeByte r
    .ok (.read p.toNat, r)
  | 3 => do
    let (b, r) ← takeByte r
    let (m, r) ← takeFlag r
    .ok (.transmit b (modeOfFlag m), r)
  | 4 => do
    let (b, r) ← takeByte r
    .ok (.writeCommand b, r)
  | 5 => do
    let (b, r) ← takeByte r
    .ok (.writeChar b, r)
  | 6 => .ok (.init, r)
  | 7 => decodeText .writeText r
  | 8 => .ok (.configureAll, r)
  | 9 => do
    let (l, r) ← takeFlag r
    .ok (.ledSet l, r)
  | 10 => .ok (.buttonRead, r)
  | 11 => decodeText .render r
  | 12 => do
    let (ok, r) ← takeFlag r
    .ok (.activate ok, r)
  | 13 => .ok (.deactivate, r)
  | 14 => .ok (.readReq, r)
  | 15 => .ok (.writeReq r, [])
  | _ => .error .reservedBits

/-- Format `OP`: the selector in bits 3:0 of the first byte, bits 7:4 zero, then the operands. -/
def decodeOp : List Byte → Except DecodeError (Instr × List Byte)
  | [] => .error .truncated
  | b :: r => decodeOperands b.toNat r

/-- The `INIT` byte of index `k` as an instruction (42 R200 to R205). -/
def initInstr : Nat → Instr
  | 0 => .init0
  | 1 => .init1
  | 2 => .init2
  | 3 => .init3
  | 4 => .init4
  | _ => .init5

/-- A command word read by its bits alone: the row of the table that fixes all nine bits, if one does, else
`LCD.COMMAND`. `INIT.2` and `INIT.4` have one word; the first is taken (log 15). -/
def commandRow (b : Byte) : Instr :=
  if b = 0x33 then .init0
  else if b = 0x32 then .init1
  else if b = 0x06 then .init2
  else if b = 0x0C then .init3
  else if b = 0x01 then .init5
  else if b = 0x28 then .notSent28
  else .lcdCommand b

/-- A bus word of mode `m` and byte `b` with its role: 0 none given, 1 to 6 the `INIT` byte of index 0 to 5,
7 a caller's word (log 15). -/
def decodeBusWord (b : Byte) (m : Bool) (role : Nat) : Except DecodeError Instr :=
  if m then
    if role = 0 then .ok (.lcdChar b) else .error .badRole
  else if role = 0 then .ok (commandRow b)
  else if role = 7 then .ok (.lcdCommand b)
  else if h : role - 1 < 6 then
    if b = initSeq[role - 1] then .ok (initInstr (role - 1)) else .error .badRole
  else .error .badRole

/-- Format `LCDW` (30 R100): the byte, then bit 8 alone in the second byte, then the role byte. -/
def decodeLcdw : List Byte → Except DecodeError (Instr × List Byte)
  | b :: hi :: role :: r =>
    if 2 ≤ hi.toNat then .error .reservedBits
    else do
      let i ← decodeBusWord b (hi == 1) role.toNat
      .ok (i, r)
  | _ => .error .truncated

/-- The register of an offset (30 R95). -/
def regRow : Nat → Option (Access → Instr)
  | 0x00 => some .gpfsel0
  | 0x04 => some .gpfsel1
  | 0x08 => some .gpfsel2
  | 0x0C => some .gpfsel3
  | 0x10 => some .gpfsel4
  | 0x14 => some .gpfsel5
  | 0x1C => some .gpset0
  | 0x20 => some .gpset1
  | 0x28 => some .gpclr0
  | 0x2C => some .gpclr1
  | 0x34 => some .gplev0
  | 0x38 => some .gplev1
  | _ => none

/-- Format `REGACC` (30 R95): the offset, then the direction (0 read, 1 write), then the word of a write. -/
def decodeRegacc : List Byte → Except DecodeError (Instr × List Byte)
  | [] => .error .truncated
  | off :: r =>
    match regRow off.toNat with
    | none => .error .badOffset
    | some mk => do
      let (wr, r) ← takeFlag r
      if wr then
        let (v, r) ← takeReg r
        .ok (mk (.write v), r)
      else .ok (mk .read, r)

/-- The row of a function-select code (30 R91, R93). -/
def fselRow : Nat → Option Instr
  | 0 => some .fselInput
  | 1 => some .fselOutput
  | 2 => some .fselAlt2
  | 3 => some .fselAlt3
  | 4 => some .fselAlt4
  | 5 => some .fselAlt5
  | 6 => some .fselAlt6
  | 7 => some .fselAlt7
  | _ => none

/-- Format `FSELF` (30 R91, R92): the code in bits 2:0, then 0 for the code itself or 1 and a pin for its placement. -/
def decodeFself : List Byte → Except DecodeError (Instr × List Byte)
  | [] => .error .truncated
  | code :: r =>
    match fselRow code.toNat with
    | none => .error .reservedBits
    | some i => do
      let (place, r) ← takeFlag r
      if place then
        let (p, r) ← takeByte r
        .ok (.fselPlace p.toNat (code.setWidth 3), r)
      else .ok (i, r)

/-- The response of 30 R110 for the button bit `d`: `"Button: "`, the digit, `"\n"`. -/
def responseBytes (d : Bool) : List Byte :=
  [0x42, 0x75, 0x74, 0x74, 0x6F, 0x6E, 0x3A, 0x20, if d then 0x31 else 0x30, 0x0A]

/-- Format `WIRE`, the response (30 R110): ten bytes with one bit free. -/
def decodeResponse (r : List Byte) : Except DecodeError (Instr × List Byte) :=
  if r.length < 10 then .error .truncated
  else if r.take 10 = responseBytes false then .ok (.wireReadResp false, r.drop 10)
  else if r.take 10 = responseBytes true then .ok (.wireReadResp true, r.drop 10)
  else .error .badResponse

/-- The decoder: an instruction and the bytes left over, or a named refusal. A write request in format `WIRE` is all of
its bytes (30 R111). -/
def decode (w : Presented) : Except DecodeError (Instr × List Byte) :=
  match w.fmt with
  | .op => decodeOp w.bytes
  | .lcdw => decodeLcdw w.bytes
  | .regacc => decodeRegacc w.bytes
  | .fself => decodeFself w.bytes
  | .pinbit => do
    let (p, r) ← takeByte w.bytes
    .ok (.pinBit p.toNat, r)
  | .nib => .ok (.latchSample, w.bytes)
  | .wireResponse => decodeResponse w.bytes
  | .wireRequest => .ok (.wireWriteReq w.bytes, [])

/-! ## The encoder -/

/-- A number below 256 as a byte. -/
def natByte (n : Nat) : Byte := BitVec.ofNat 8 n

/-- A flag as a byte. -/
def flagByte (b : Bool) : Byte := if b then 1 else 0

/-- A direction as a flag. -/
def PinDirection.flag : PinDirection → Bool
  | .input => false
  | .output => true

/-- A 32-bit word as bytes, least significant first. -/
def regBytes (v : Reg32) : List Byte :=
  [v.extractLsb' 0 8, v.extractLsb' 8 8, v.extractLsb' 16 8, v.extractLsb' 24 8]

/-- A register access after its offset. -/
def encodeAccess (off : Byte) : Access → Presented
  | .read => ⟨.regacc, [off, 0]⟩
  | .write v => ⟨.regacc, off :: 1 :: regBytes v⟩

/-- The operands of `WRITE_TEXT` and `RENDER` after the selector. -/
def encodeText (sel : Byte) (t : List Byte) (n : Nat) : Presented :=
  ⟨.op, sel :: natByte n :: t⟩

/-- The bytes of an instruction. -/
def encode : Instr → Presented
  | .configure pins dir => ⟨.op, 0 :: flagByte dir.flag :: natByte pins.length :: pins.map natByte⟩
  | .set p level => ⟨.op, [1, natByte p, flagByte level]⟩
  | .read p => ⟨.op, [2, natByte p]⟩
  | .transmit b m => ⟨.op, [3, b, flagByte m.bit]⟩
  | .writeCommand b => ⟨.op, [4, b]⟩
  | .writeChar b => ⟨.op, [5, b]⟩
  | .init => ⟨.op, [6]⟩
  | .writeText t n => encodeText 7 t n
  | .configureAll => ⟨.op, [8]⟩
  | .ledSet level => ⟨.op, [9, flagByte level]⟩
  | .buttonRead => ⟨.op, [10]⟩
  | .render t n => encodeText 11 t n
  | .activate ok => ⟨.op, [12, flagByte ok]⟩
  | .deactivate => ⟨.op, [13]⟩
  | .readReq => ⟨.op, [14]⟩
  | .writeReq bytes => ⟨.op, 15 :: bytes⟩
  | .lcdCommand b => ⟨.lcdw, [b, 0, 7]⟩
  | .lcdChar b => ⟨.lcdw, [b, 1, 0]⟩
  | .init0 => ⟨.lcdw, [0x33, 0, 1]⟩
  | .init1 => ⟨.lcdw, [0x32, 0, 2]⟩
  | .init2 => ⟨.lcdw, [0x06, 0, 3]⟩
  | .init3 => ⟨.lcdw, [0x0C, 0, 4]⟩
  | .init4 => ⟨.lcdw, [0x06, 0, 5]⟩
  | .init5 => ⟨.lcdw, [0x01, 0, 6]⟩
  | .notSent28 => ⟨.lcdw, [0x28, 0, 0]⟩
  | .gpfsel0 a => encodeAccess 0x00 a
  | .gpfsel1 a => encodeAccess 0x04 a
  | .gpfsel2 a => encodeAccess 0x08 a
  | .gpfsel3 a => encodeAccess 0x0C a
  | .gpfsel4 a => encodeAccess 0x10 a
  | .gpfsel5 a => encodeAccess 0x14 a
  | .gpset0 a => encodeAccess 0x1C a
  | .gpset1 a => encodeAccess 0x20 a
  | .gpclr0 a => encodeAccess 0x28 a
  | .gpclr1 a => encodeAccess 0x2C a
  | .gplev0 a => encodeAccess 0x34 a
  | .gplev1 a => encodeAccess 0x38 a
  | .fselInput => ⟨.fself, [0, 0]⟩
  | .fselOutput => ⟨.fself, [1, 0]⟩
  | .fselAlt2 => ⟨.fself, [2, 0]⟩
  | .fselAlt3 => ⟨.fself, [3, 0]⟩
  | .fselAlt4 => ⟨.fself, [4, 0]⟩
  | .fselAlt5 => ⟨.fself, [5, 0]⟩
  | .fselAlt6 => ⟨.fself, [6, 0]⟩
  | .fselAlt7 => ⟨.fself, [7, 0]⟩
  | .fselPlace p code => ⟨.fself, [code.setWidth 8, 1, natByte p]⟩
  | .pinBit p => ⟨.pinbit, [natByte p]⟩
  | .latchSample => ⟨.nib, []⟩
  | .wireReadResp d => ⟨.wireResponse, responseBytes d⟩
  | .wireWriteReq bytes => ⟨.wireRequest, bytes⟩

/-! ## The opcode table's own numbering of bits -/

/-- The first `n` bytes of `w`, least significant first. -/
def bytesLE : Nat → Nat → List Byte
  | 0, _ => []
  | n + 1, w => natByte (w % 256) :: bytesLE n (w / 256)

/-- The format in which a row of `nbits` bits with the bits `w` is read. The seven formats are separate spaces and several
share a word, so the number of bits decides, and at eight bits the value: below 16 an operation selector, else a register
offset (log 9). -/
def tableFormat (nbits w : Nat) : Option Format :=
  if nbits = 3 then some .fself
  else if nbits = 4 then some .op
  else if nbits = 6 then some .nib
  else if nbits = 8 then (if w < 16 then some .op else some .regacc)
  else if nbits = 9 ∨ nbits = 16 then some .lcdw
  else if nbits = 32 then some .pinbit
  else if nbits = 80 then some .wireResponse
  else none

/-- The bytes of a table word, then zeros for the operand bytes the table gives no bits. The 80-bit response is numbered
from its last byte (30 R110: "first byte first and most significant bit of each byte first"). -/
def tableBytes (nbits w : Nat) : List Byte :=
  if nbits = 80 then (bytesLE 10 w).reverse
  else bytesLE ((nbits + 7) / 8) w ++ List.replicate 8 0

/-- A table word as it is presented; a word of no format is presented as an empty operation, which no decoder accepts. -/
def tableWord (nbits w : Nat) : Presented :=
  match tableFormat nbits w with
  | some f => ⟨f, tableBytes nbits w⟩
  | none => ⟨.op, []⟩

/-- The instruction the decoder reads from a table word. -/
def decodeTableWord (nbits w : Nat) : Option Instr :=
  match decode (tableWord nbits w) with
  | .ok (i, _) => some i
  | .error _ => none

end Sys2Proof
end

