-- ==== Sys2Proof/Machine/State.lean ====
section
/-!
DEFINITION. The state of the block as plain data (spec/10_state.md), the reasons a step can stop
(spec/60_exceptions.md R287 to R290, R292), and the state at power-on (10 R41). The fields after `result` are the model's
own and stand in no rule (logs 1, 5, 8, 9, 11, 12).
-/

namespace Sys2Proof.Machine

/-- One event of the trace (00 R13). -/
inductive Event where
  /-- `RD(off)=v`. -/
  | rd (off : Nat) (v : Reg32)
  /-- `WR(off, v)`. -/
  | wr (off : Nat) (v : Reg32)
  /-- `BAR`. -/
  | bar
  /-- `DLY(d)`, `d` in microseconds. -/
  | dly (d : Nat)
  /-- `LOG`. -/
  | log
  deriving DecidableEq, Repr

/-- A latch event `(rs, rw, n)` (45 R270). -/
structure Latch where
  rs : Bool
  rw : Bool
  nibble : Nibble
  deriving DecidableEq, Repr

/-- `LIFE` (10 R26). -/
inductive Life where
  | inactive
  | active
  deriving DecidableEq, Repr

/-- `SEQ.OP` (10 R27): the operation in progress, by its name in 30 R120, or idle. -/
inductive OpName where
  | idle
  | configure
  | set
  | read
  | transmit
  | writeCommand
  | writeChar
  | init
  | writeText
  | configureAll
  | ledSet
  | buttonRead
  | render
  | activate
  | deactivate
  | readReq
  | writeReq
  deriving DecidableEq, Repr

/-- `SEQ.PHASE` (10 R27): the step of a compound operation. `byte k` and `postClear` are those of 42 R190 and R195, the
last four those of 43 R224. -/
inductive Phase where
  | none
  | byte (k : Nat)
  | postClear
  | cfg
  | init
  | settle
  | text
  deriving DecidableEq, Repr

/-- `SEQ.ST` (10 R27): idle and the five states of 41 R160. -/
inductive ByteState where
  | idle
  | setMode
  | loadHighNibble
  | latchHigh
  | loadLowNibble
  | latchLow
  deriving DecidableEq, Repr

/-- `SEQ`, the sequencer position (10 R27). -/
structure Seq where
  op : OpName
  phase : Phase
  st : ByteState
  u : Nat
  deriving DecidableEq, Repr

/-- The position at which nothing is in progress. -/
def Seq.idle : Seq := ⟨.idle, .none, .idle, 0⟩

/-- The device registers of the GPIO bank (10 R20 (a)). -/
structure Device where
  /-- `FSEL[0..5]` (10 R21). -/
  fsel : Vector Reg32 6
  /-- `OUTL[0..1]`, the output latch (10 R22). -/
  outl : Vector Reg32 2
  deriving DecidableEq, Repr

/-- What a function-select code makes of its pin (30 R91). -/
inductive PinFunction where
  | input
  | output
  | alternate
  deriving DecidableEq, Repr

/-- The two errors of the document (60 R285, R286, R292). -/
inductive Error where
  | fatalMappingError
  | malformedRequest
  deriving DecidableEq, Repr

/-- The result of the operation that ended last, as the host may take it (70 R335, 30 R120). The last six are what the
rows that are no operations compute (log 13). -/
inductive Result where
  | empty
  /-- `ACTIVATE` succeeded. -/
  | ok
  /-- The operation ended with a named error that its caller sees. -/
  | error (e : Error)
  /-- The level `READ` and `BUTTON_READ` return. -/
  | level (b : Bool)
  /-- The bytes `READ_REQ` returns. -/
  | bytes (bs : List Byte)
  /-- The count `WRITE_REQ` returns. -/
  | count (n : Nat)
  /-- The word a register read returns. -/
  | word (v : Reg32)
  /-- The function of a function-select code (30 R91). -/
  | function (f : PinFunction)
  /-- Register index, field mask and value of a placed field (30 R92). -/
  | placement (k : Nat) (mask value : Reg32)
  /-- Bank and one-bit word of a pin (30 R94). -/
  | pinBit (bank : Nat) (word : Reg32)
  /-- The six bits of a latch sample (30 R103). -/
  | sample (v : BitVec 6)
  /-- The match of a write request, or none where it is malformed (30 R111). -/
  | request (m : Option (List Byte × Nat))
  deriving DecidableEq, Repr

/-- How a step runs what is presented (00 R19): a whole operation, or one position of `SEQ`. -/
inductive Grain where
  | operation
  | position
  deriving DecidableEq, Repr

/-- The state of the block. -/
structure State where
  /-- `FSEL` and `OUTL`. -/
  dev : Device
  /-- `LIFE` (10 R26). -/
  life : Life
  /-- `SEQ` (10 R27). -/
  seq : Seq
  /-- `BYTE` (10 R28). -/
  byte : Byte
  /-- `MODE` (10 R28). -/
  mode : Mode
  /-- `TXT[0..15]` (10 R29). -/
  txt : Vector Byte 16
  /-- `CNT`, 0..16 (10 R29). -/
  cnt : Nat
  /-- `IDX`, 0..16 (10 R29). -/
  idx : Nat
  /-- `INITIDX`, 0..6 (10 R30). -/
  initIdx : Nat
  /-- `READY` (10 R31). -/
  ready : Bool
  /-- `BUSY` (10 R31). -/
  busy : Bool
  /-- `REQ[0..31]` (10 R33). -/
  req : Vector Byte 32
  /-- `REQLEN`, 0..32 (10 R33). -/
  reqLen : Nat
  /-- `RESP[0..15]` (10 R33). -/
  resp : Vector Byte 16
  /-- `RESPLEN`, 0..16 (10 R33). -/
  respLen : Nat
  /-- `NOW` in microseconds (10 R34). -/
  now : Nat
  /-- `TRACE`, oldest event first (10 R34). -/
  trace : List Event
  /-- `LOGCNT` (10 R34). -/
  logCnt : Nat
  /-- `LATCHED`, oldest latch event first (10 R34). -/
  latched : List Latch
  /-- The result of the operation that ended last (70 R335); empty from the acceptance of the next (log 4). -/
  result : Result
  /-- MODEL: the parameters of 00 R8, constant (log 1). -/
  cfg : Config
  /-- MODEL: what the host presents at each coming step, next step first: a word, or nothing (logs 9, 10). -/
  port : List (Option Presented)
  /-- MODEL: how a step runs what is presented (log 11). -/
  grain : Grain
  /-- MODEL: the operand of the `RENDER` in progress, its text, or of the `WRITE_REQ` in progress, its bytes as presented
  (log 12). -/
  arg : List Byte
  /-- MODEL: the external level of every pin at the coming level reads, next one first (10 R23, log 5). -/
  extIn : List (BitVec 54)
  /-- MODEL: how many free values have been drawn (log 8). -/
  draws : Nat
  deriving DecidableEq, Repr

/-- Why the machine stops with a fault. -/
inductive Fault where
  /-- Raised by `microStep` where `SEQ` is at a position 41 R162 does not enumerate. SAFE: no state that meets the
  invariant `Inv` of Sys2Proof/Safety.lean has such a position (log 22). -/
  | illegalPosition
  /-- Raised by `rejectWord` where the bytes presented are no instruction of any format. SAFE: the spec gives its operations
  no bytes, so such bytes are no operation and no cause of R292 fits them (log 9). -/
  | undecodable (e : DecodeError)
  deriving DecidableEq, Repr

/-- Why an operation is refused: the six refusal reasons of the closed set of R292, and the name the host asks for. A refused
operation appends nothing and changes nothing, and the run is not final
(60, section 2); every one is SAFE, since nothing can be proved of a run that breaks a precondition. -/
inductive Refusal where
  /-- Raised by an arm of `exec` without a meaning. SAFE. -/
  | notModelled (mnemonic : String)
  /-- Raised by every instruction but `ACTIVATE` and `DEACTIVATE` while `LIFE = Inactive` (60 R287). SAFE. -/
  | useWhileUnmapped
  /-- Raised by `ACTIVATE` while Active, and by `DEACTIVATE` while Inactive or busy (60 R287). SAFE. -/
  | badLifecycle
  /-- Raised where something is presented while `BUSY = 1` (60 R288, 10 R31). SAFE. -/
  | busy
  /-- Raised for a pin operand above 53 (60 R289, 30 R96). SAFE. -/
  | invalidPin
  /-- Raised by `WRITE_TEXT` and `RENDER` for a count above the text's length or above 16 (60 R289). SAFE. -/
  | badOperand
  /-- Raised by a register access at an offset, width or direction outside the table of 30 R95 (60 R290), and by the request
  port for every register access presented from outside (30 R122, log 13). SAFE. -/
  | badAccess
  deriving DecidableEq, Repr

/-- `REQ` with "no value" (10 R41), zeros (log 3). -/
def emptyReq : Vector Byte 32 :=
  #v[0, 0, 0, 0, 0, 0, 0, 0, 0, 0, 0, 0, 0, 0, 0, 0, 0, 0, 0, 0, 0, 0, 0, 0, 0, 0, 0, 0, 0, 0, 0, 0]

/-- `RESP` with "no value" (10 R41), zeros (log 3). -/
def emptyResp : Vector Byte 16 := #v[0, 0, 0, 0, 0, 0, 0, 0, 0, 0, 0, 0, 0, 0, 0, 0]

/-- The state at power-on, before the first `ACTIVATE` (10 R41). Where the spec gives no value (`FSEL`, the pin bits of
`OUTL`, the registers that hold "no value") the zeros are DESIGN CHOICEs (logs 2, 3, 4). -/
def State.reset : State :=
  { dev := { fsel := #v[0, 0, 0, 0, 0, 0], outl := #v[0, 0] }
    life := .inactive
    seq := Seq.idle
    byte := 0
    mode := .command
    txt := #v[0, 0, 0, 0, 0, 0, 0, 0, 0, 0, 0, 0, 0, 0, 0, 0]
    cnt := 0
    idx := 0
    initIdx := 0
    ready := false
    busy := false
    req := emptyReq
    reqLen := 0
    resp := emptyResp
    respLen := 0
    now := 0
    trace := []
    logCnt := 0
    latched := []
    result := .empty
    cfg := Config.default
    port := []
    grain := .operation
    arg := []
    extIn := []
    draws := 0 }

end Sys2Proof.Machine
end

