-- ==== Sys2Proof/Machine/Operands.lean ====
section
/-!
DEFINITION. Operand forms: the registers and their offsets (spec/20_memory.md R61, spec/30_encoding.md R95), the place of a
pin's field and bit (30 R92, R94), function-select assembly (30 R91, R92), nibbles and data lines (30 R101, R102), and the
checks that turn a presented pin, pin set or text into one the block accepts (spec/60_exceptions.md R289).
-/

namespace Sys2Proof.Machine

/-- The registers of the block by kind and index (20 R61). -/
inductive Reg where
  /-- `GPFSELk` = `FSEL[k]`. -/
  | fsel (k : Fin 6)
  /-- `GPSETj`. -/
  | set (j : Fin 2)
  /-- `GPCLRj`. -/
  | clr (j : Fin 2)
  /-- `GPLEVj`. -/
  | lev (j : Fin 2)
  deriving DecidableEq, Repr

/-- Every register, in the order of the table of 20 R61. -/
def allRegs : List Reg :=
  [.fsel 0, .fsel 1, .fsel 2, .fsel 3, .fsel 4, .fsel 5, .set 0, .set 1, .clr 0, .clr 1, .lev 0, .lev 1]

/-- The byte offset of a register (20 R61, 40 R141). -/
def offsetOf (c : Config) : Reg → Nat
  | .fsel k => c.offFsel[k]
  | .set j => c.offSet[j]
  | .clr j => c.offClr[j]
  | .lev j => c.offLev[j]

/-- The register at an offset, if there is one (30 R95). -/
def regAt (c : Config) (off : Nat) : Option Reg :=
  allRegs.find? (fun r => offsetOf c r == off)

/-! ## Pins -/

/-- The function-select register of a pin: `p div 10` (30 R92). -/
def fselReg (p : Pin) : Fin 6 := ⟨p.val / 10, by have := p.isLt; omega⟩

/-- The lowest bit of a pin's field: `3 * (p mod 10)` (30 R92). -/
def fselShift (p : Pin) : Nat := 3 * (p.val % 10)

/-- The bank of a pin: `p div 32` (30 R94). -/
def bankOf (p : Pin) : Fin 2 := ⟨p.val / 32, by have := p.isLt; omega⟩

/-- The bit of a pin in its bank: `p mod 32` (30 R94). -/
def bitOf (p : Pin) : Nat := p.val % 32

/-- `1 << (p mod 32)` (30 R94). -/
def pinWord (p : Pin) : Reg32 := 1#32 <<< bitOf p

/-- The bits of a bank's words that belong to a pin: bank 1 has pins 32 to 53 (00 R10, 10 R22). -/
def pinMask (j : Fin 2) : Reg32 := if j = 0 then 0xFFFFFFFF else 0x003FFFFF

/-- A pin operand in 0..53, or nothing (60 R289). -/
def pinOf? (p : Nat) : Option Pin := if h : p < 54 then some ⟨p, h⟩ else none

/-- A set of pin operands, all of them in 0..53, or nothing (60 R289). -/
def pinsOf? : List Nat → Option (List Pin)
  | [] => some []
  | p :: ps =>
    match pinOf? p, pinsOf? ps with
    | some q, some qs => some (q :: qs)
    | _, _ => none

/-- The data line `DPIN(i)`: D4, D5, D6, D7 for 0, 1, 2, 3 (41 R161). -/
def dpin (m : PinMap) : Nat → Pin
  | 0 => m.d4
  | 1 => m.d5
  | 2 => m.d6
  | _ => m.d7

/-! ## Function-select codes -/

/-- `code(dir)` (30 R92). -/
def codeOf (c : Config) : PinDirection → BitVec 3
  | .input => fselInputCode
  | .output => c.fselOutput

/-- What a code makes of its pin (30 R91). -/
def functionOf (c : Config) (code : BitVec 3) : PinFunction :=
  if code = fselInputCode then .input else if code = c.fselOutput then .output else .alternate

/-- `0b111 << (3 * (p mod 10))` (30 R92). -/
def fieldMask (p : Pin) : Reg32 := 7#32 <<< fselShift p

/-- `code << (3 * (p mod 10))` (30 R92). -/
def fieldValue (code : BitVec 3) (p : Pin) : Reg32 := code.setWidth 32 <<< fselShift p

/-- The registers a set of pins touches, in ascending order (40 R131). -/
def touched (ps : List Pin) : List (Fin 6) :=
  [0, 1, 2, 3, 4, 5].filter (fun k => ps.any (fun p => fselReg p == k))

/-- `M_k(S)` (30 R92). -/
def regMask (k : Fin 6) (ps : List Pin) : Reg32 :=
  (ps.filter (fun p => fselReg p == k)).foldr (fun p m => fieldMask p ||| m) 0

/-- `C_k(S, dir)` (30 R92). -/
def regValue (code : BitVec 3) (k : Fin 6) (ps : List Pin) : Reg32 :=
  (ps.filter (fun p => fselReg p == k)).foldr (fun p m => fieldValue code p ||| m) 0

/-- `(old & ~M_k(S)) | C_k(S, dir)` (30 R92). -/
def assembled (code : BitVec 3) (k : Fin 6) (ps : List Pin) (old : Reg32) : Reg32 :=
  (old &&& ~~~(regMask k ps)) ||| regValue code k ps

/-! ## Bytes -/

/-- `BYTE[7:4]` (30 R101). -/
def highNibble (b : Byte) : Nibble := b.extractLsb' 4 4

/-- `BYTE[3:0]` (30 R101). -/
def lowNibble (b : Byte) : Nibble := b.extractLsb' 0 4

/-- The first `n` bytes of a text, where `n` is at most its length and at most 16 (42 R196, 60 R289). -/
def textOf? (t : List Byte) (n : Nat) : Option (List Byte) :=
  if n ≤ t.length ∧ n ≤ maxText then some (t.take n) else none

/-- Bytes written into successive cells, the other cells kept. -/
def writeCells {n : Nat} (v : Vector Byte n) : Nat → List Byte → Vector Byte n
  | _, [] => v
  | i, b :: bs => writeCells (v.setIfInBounds i b) (i + 1) bs

/-- The byte in a cell; every cell a rule reads is in range. -/
def cellAt {n : Nat} (v : Vector Byte n) (i : Nat) : Byte := v[i]?.getD 0

end Sys2Proof.Machine
end

