-- ==== Sys2Proof/Machine/Ops.lean ====
section
/-!
DEFINITION. The named operations every meaning is made of: what the device registers hold and do
(spec/20_memory.md R66 to R69, spec/10_state.md R24, R25), the primitives of spec/00_scope.md R12, the three operations of
the GPIO bank without their preconditions (spec/40_gpio_bank.md), and taking an error (spec/60_exceptions.md R285, R286).
-/

namespace Sys2Proof.Machine

/-- What an instruction answers. -/
abbrev Answer := Host.Outcome State Fault Refusal

/-! ## The device -/

/-- `fsel(p)`, the function-select field of a pin (10 R21). -/
def fieldOf (d : Device) (p : Pin) : BitVec 3 := (d.fsel[fselReg p]).extractLsb' (fselShift p) 3

/-- `outl(p)`, the latch bit of a pin (10 R22). -/
def latchBit (d : Device) (p : Pin) : Bool := (d.outl[bankOf p]).getLsbD (bitOf p)

/-- What the field of a pin makes of it (30 R91). -/
def pinFunction (c : Config) (d : Device) (p : Pin) : PinFunction := functionOf c (fieldOf d p)

/-- `pad(p)` where the block drives the pin (10 R25); nothing where it does not or where it is unspecified. -/
def pad (c : Config) (d : Device) (p : Pin) : Option Bool :=
  match pinFunction c d p with
  | .output => some (latchBit d p)
  | .input => none
  | .alternate => none

/-- `level(p)` (10 R24), given the external levels and the free bits of this read. -/
def level (c : Config) (d : Device) (ext : BitVec 54) (free : BitVec 64) (p : Pin) : Bool :=
  match pinFunction c d p with
  | .output => latchBit d p
  | .input => ext.getLsbD p.val
  | .alternate => free.getLsbD p.val

/-- The word whose bit `i` is `f i`. -/
def bitsOf (f : Nat → Bool) : (n : Nat) → BitVec n
  | 0 => 0#0
  | n + 1 => BitVec.cons (f n) (bitsOf f n)

/-- Bit `i` of the level word of bank `j` (20 R68): the level of pin `32 * j + i`, or a free bit where there is no such
pin. -/
def levelBit (c : Config) (d : Device) (ext : BitVec 54) (free : BitVec 64) (j : Fin 2) (i : Nat) : Bool :=
  match pinOf? (32 * j.val + i) with
  | some p => level c d ext free p
  | none => free.getLsbD (32 * j.val + i)

/-- The word a read of `GPLEVj` returns (20 R68). -/
def levelWord (c : Config) (d : Device) (ext : BitVec 54) (free : BitVec 64) (j : Fin 2) : Reg32 :=
  bitsOf (levelBit c d ext free j) 32

/-- The effect of a register write on the device (20 R66, R67, R69). A write of a level register is never made
(20 R69) and `accessReg` refuses it. -/
def deviceWrite (r : Reg) (v : Reg32) (d : Device) : Device :=
  match r with
  | .fsel k => { d with fsel := d.fsel.set k v }
  | .set j => { d with outl := d.outl.set j (d.outl[j] ||| (v &&& pinMask j)) }
  | .clr j => { d with outl := d.outl.set j (d.outl[j] &&& ~~~v) }
  | .lev _ => d

/-- Whether a write that takes the device from `d` to `d'` takes `pad(PIN_E)` from 1 to 0 while E is an output
(45 R270); an edge a function-select write makes is not counted (45 R274). -/
def fallingE (c : Config) (d d' : Device) : Bool :=
  pad c d c.pins.e == some true && pad c d' c.pins.e == some false

/-- The pad of a pin, or a free bit where the block does not drive it. -/
def padOrFree (c : Config) (d : Device) (free : BitVec 64) (p : Pin) : Bool :=
  (pad c d p).getD (free.getLsbD p.val)

/-- The sample of a latch event (30 R103, 45 R270). -/
def latchOf (c : Config) (d : Device) (free : BitVec 64) : Latch :=
  { rs := padOrFree c d free c.pins.rs
    rw := padOrFree c d free c.pins.rw
    nibble := bitsOf (fun i => padOrFree c d free (dpin c.pins i)) 4 }

/-- A latch event as the six bits of `NIB`: `rs ++ rw ++ d7 ++ d6 ++ d5 ++ d4` (30 R103). -/
def nibBits (l : Latch) : BitVec 6 := BitVec.cons l.rs (BitVec.cons l.rw l.nibble)

/-! ## The primitives -/

/-- An event appended to the trace (00 R13). -/
def emit (e : Event) (s : State) : State := { s with trace := s.trace ++ [e] }

/-- `Barrier()` (20 R72). -/
def barrier (s : State) : State := emit .bar s

/-- `Delay(d)` (60 R300): `NOW` advances by `d` and a free overrun (log 7). -/
def delay (d : Nat) (s : State) : State :=
  { emit (.dly d) s with now := s.now + d + Config.freeOverrun s.draws, draws := s.draws + 1 }

/-- `Log()` (60 R291). -/
def logEntry (s : State) : State := { emit .log s with logCnt := s.logCnt + 1 }

/-- The external levels of the coming level read: the next listed ones, or free ones (10 R23, log 5). -/
def extNow (s : State) : BitVec 54 :=
  match s.extIn with
  | e :: _ => e
  | [] => Config.freeExt s.draws

/-- The word the coming read of `GPLEVj` returns (20 R68). -/
def levelNow (s : State) (j : Fin 2) : Reg32 :=
  levelWord s.cfg s.dev (extNow s) (Config.freeLevel s.draws) j

/-- `MemRead(OFF_FSEL(k), 4)` (20 R69); the value read is `FSEL[k]`. -/
def readFsel (k : Fin 6) (s : State) : State :=
  emit (.rd (offsetOf s.cfg (.fsel k)) s.dev.fsel[k]) s

/-- `MemRead(OFF_LEV(j), 4)` (20 R68); the value read is `levelNow s j`, and the levels it drew are used up. -/
def readLev (j : Fin 2) (s : State) : State :=
  { emit (.rd (offsetOf s.cfg (.lev j)) (levelNow s j)) s with extIn := s.extIn.tail, draws := s.draws + 1 }

/-- The latch events one write adds: one where it makes E fall, sampled from the device as the write leaves it
(45 R270, log 17). -/
def latchesOfWrite (c : Config) (free : BitVec 64) (d d' : Device) : List Latch :=
  if fallingE c d d' then [latchOf c d' free] else []

/-- `MemWrite(off, 4, v)` at the offset of a register (20 R66, R67, R69), with the latch event it may be. -/
def regWrite (r : Reg) (v : Reg32) (s : State) : State :=
  { emit (.wr (offsetOf s.cfg r) v) s with
    dev := deviceWrite r v s.dev
    latched := s.latched ++ latchesOfWrite s.cfg (Config.freeLevel s.draws) s.dev (deviceWrite r v s.dev)
    draws := s.draws + 1 }

/-- One register access in the direction asked for, or `BadAccess` where the register has no such direction
(30 R95, 60 R290). -/
def accessReg (r : Reg) (a : Access) (s : State) : Answer :=
  match r, a with
  | .fsel k, .read => .next { readFsel k s with result := .word s.dev.fsel[k] }
  | .lev j, .read => .next { readLev j s with result := .word (levelNow s j) }
  | .fsel k, .write v => .next { regWrite (.fsel k) v s with result := .empty }
  | .set j, .write v => .next { regWrite (.set j) v s with result := .empty }
  | .clr j, .write v => .next { regWrite (.clr j) v s with result := .empty }
  | .set _, .read => .refused .badAccess
  | .clr _, .read => .refused .badAccess
  | .lev _, .write _ => .refused .badAccess

/-- `MemRead(off, width)` and `MemWrite(off, width, v)`, total over offsets and widths (20 R64, 60 R290). -/
def memAccess (off width : Nat) (a : Access) (s : State) : Answer :=
  if width = 4 then
    match regAt s.cfg off with
    | some r => accessReg r a s
    | none => .refused .badAccess
  else .refused .badAccess

/-! ## The GPIO bank -/

/-- The body of `SET(p, level)` (40 R135). -/
def setPin (p : Pin) (lvl : Bool) (s : State) : State :=
  barrier (regWrite (if lvl then .set (bankOf p) else .clr (bankOf p)) (pinWord p) (barrier s))

/-- One register of `CONFIGURE`: one read, then one write (40 R131). -/
def configureReg (ps : List Pin) (code : BitVec 3) (s : State) (k : Fin 6) : State :=
  regWrite (.fsel k) (assembled code k ps s.dev.fsel[k]) (readFsel k s)

/-- The body of `CONFIGURE(S, dir)` (40 R131). -/
def configurePins (ps : List Pin) (dir : PinDirection) (s : State) : State :=
  barrier ((touched ps).foldl (configureReg ps (codeOf s.cfg dir)) (barrier s))

/-- The body of `READ(p)` (40 R138). -/
def readPin (p : Pin) (s : State) : State := readLev (bankOf p) (barrier s)

/-- The value `READ(p)` returns: bit `p mod 32` of the word read (40 R138). -/
def pinLevelNow (p : Pin) (s : State) : Bool := (levelNow s (bankOf p)).getLsbD (bitOf p)

/-! ## Errors -/

/-- An error taken where it is detected and seen by the caller (60 R285, R294): it becomes the result, and nothing else
changes. -/
def raiseError (e : Error) (s : State) : State := { s with result := .error e }

/-- An error absorbed where it is detected (60 R286, R295): one diagnostic, and the count is reported as for success. -/
def absorbError (n : Nat) (s : State) : State := { logEntry s with result := .count n }

end Sys2Proof.Machine
end

