-- ==== Sys2Proof/Machine/Flags.lean ====
section
/-!
DEFINITION. The two flags of the block, `READY` and `BUSY` (spec/10_state.md R31), the mode `LIFE` (10 R26), the beginning
and the end of a top-level operation (spec/70_reset_and_hazards.md R335), and the checks every operation makes first
(spec/60_exceptions.md R287, R288, R293).
-/

namespace Sys2Proof.Machine

/-- `READY` written (10 R31). -/
def setReady (b : Bool) (s : State) : State := { s with ready := b }

/-- A top-level operation is accepted: `BUSY` is 1 and `SEQ` stands at the operation (10 R27, R31). -/
def beginOp (op : OpName) (s : State) : State :=
  { s with busy := true, seq := { Seq.idle with op := op }, result := .empty }

/-- A top-level operation is over: `SEQ.OP` is back at idle and `BUSY` is cleared (70 R335). -/
def finish (s : State) : State := { s with busy := false, seq := Seq.idle, arg := [] }

/-- The checks of whatever needs `LIFE = Active`: `LIFE`, then `BUSY` (60 R293, R299). -/
def whenActive (s : State) (k : Answer) : Answer :=
  if s.life = .inactive then .refused .useWhileUnmapped
  else if s.busy then .refused .busy
  else k

/-- A whole operation: accepted, performed, over. -/
def runOp (op : OpName) (body : State → State) (s : State) : Answer :=
  whenActive s (.next (finish (body (beginOp op s))))

/-- A whole operation on a valid pin operand (60 R289). -/
def runPinOp (op : OpName) (p : Nat) (body : Pin → State → State) (s : State) : Answer :=
  whenActive s (match pinOf? p with
    | some q => .next (finish (body q (beginOp op s)))
    | none => .refused .invalidPin)

/-- A whole operation on a text operand within its bounds (60 R289). -/
def runTextOp (op : OpName) (t : List Byte) (n : Nat) (body : List Byte → State → State) (s : State) : Answer :=
  whenActive s (match textOf? t n with
    | some text => .next (finish (body text (beginOp op s)))
    | none => .refused .badOperand)

/-- A row that only computes a value: the value becomes the result (log 13). -/
def evaluate (r : Result) (s : State) : Answer := whenActive s (.next { s with result := r })

end Sys2Proof.Machine
end

