-- ==== Sys2Proof/Machine/GpioBank.lean ====
section
/-!
DEFINITION. The GPIO bank as operations: `CONFIGURE`, `SET`, `READ` (spec/40_gpio_bank.md R130 to R141).
-/

namespace Sys2Proof.Machine

/-- `CONFIGURE(S, dir)` (40 R131). Every pin operand is checked before the first event (40 R130). -/
def execConfigure (pins : List Nat) (dir : PinDirection) (s : State) : Answer :=
  whenActive s (match pinsOf? pins with
    | some ps => .next (finish (configurePins ps dir (beginOp .configure s)))
    | none => .refused .invalidPin)

/-- `SET(p, level)` (40 R135). -/
def execSet (p : Nat) (lvl : Bool) (s : State) : Answer :=
  runPinOp .set p (fun q => setPin q lvl) s

/-- `READ` of a valid pin, with its result (40 R138). -/
def readPinResult (p : Pin) (s : State) : State := { readPin p s with result := .level (pinLevelNow p s) }

/-- `READ(p) -> bool` (40 R138). -/
def execRead (p : Nat) (s : State) : Answer := runPinOp .read p readPinResult s

end Sys2Proof.Machine
end

