-- ==== Sys2Proof/Machine/Transfer.lean ====
section
/-!
DEFINITION. The byte transfer in its operation-level form (spec/41_lcd_transfer.md R160, R161): `TRANSMIT`,
`WRITE_COMMAND`, `WRITE_CHAR`, and the bus words that stand for one transfer (spec/30_encoding.md R100, R106, R107;
spec/42_lcd_sequences.md R200 to R205).
-/

namespace Sys2Proof.Machine

/-- One data line low. -/
def clearLine (s : State) (i : Nat) : State := setPin (dpin s.cfg.pins i) false s

/-- One data line high where its bit is 1; a line whose bit is 0 is not written (41 R164). -/
def raiseLine (n : Nibble) (s : State) (i : Nat) : State :=
  if n.getLsbD i then setPin (dpin s.cfg.pins i) true s else s

/-- The first loop of `LOAD`: the four data lines low, D4 first (41 R164). -/
def clearLines (s : State) : State := [0, 1, 2, 3].foldl clearLine s

/-- The second loop of `LOAD`, D4 first (41 R164). -/
def raiseLines (n : Nibble) (s : State) : State := [0, 1, 2, 3].foldl (raiseLine n) s

/-- `LOAD(n)` (41 R161). -/
def loadNibble (n : Nibble) (s : State) : State := raiseLines n (clearLines s)

/-- Enable driven to a level. -/
def driveE (lvl : Bool) (s : State) : State := setPin s.cfg.pins.e lvl s

/-- `LATCH()` (41 R161, R165): wait, E high, wait, E low, wait. -/
def latchNibble (s : State) : State :=
  delay tNibbleSettle (driveE false (delay tNibbleSettle (driveE true (delay tNibbleSettle s))))

/-- `BYTE` and `MODE` written at the start of a transfer (10 R28). -/
def loadByte (b : Byte) (m : Mode) (s : State) : State := { s with byte := b, mode := m }

/-- `SetMode`: RS to low for Command and high for Character; RW is not written (41 R163). -/
def setModeLine (s : State) : State := setPin s.cfg.pins.rs s.mode.bit s

/-- The body of `TRANSMIT(b, m)` (41 R161). -/
def transmitByte (b : Byte) (m : Mode) (s : State) : State :=
  latchNibble (loadNibble (lowNibble b) (latchNibble (loadNibble (highNibble b) (setModeLine (loadByte b m s)))))

/-- `TRANSMIT(b, m)` (41 R161). -/
def execTransmit (b : Byte) (m : Mode) (s : State) : Answer := runOp .transmit (transmitByte b m) s

/-- `WRITE_COMMAND(b)` (41 R170): every byte is accepted (30 R107). -/
def execWriteCommand (b : Byte) (s : State) : Answer := runOp .writeCommand (transmitByte b .command) s

/-- `WRITE_CHAR(b)` (41 R171). -/
def execWriteChar (b : Byte) (s : State) : Answer := runOp .writeChar (transmitByte b .character) s

/-! ## Bus words (30 R100) -/

/-- The bus word `0 ++ b`, sent as any command is (41 R170). -/
def execLcdCommand (b : Byte) (s : State) : Answer := runOp .transmit (transmitByte b .command) s

/-- The bus word `1 ++ b` (41 R171). -/
def execLcdChar (b : Byte) (s : State) : Answer := runOp .transmit (transmitByte b .character) s

/-- The bus word of the `INIT` byte of index `k` (42 R200 to R205). It is a bus word like any other: `INITIDX` and `READY`
belong to `INIT` (log 13). -/
def sendInitWord (k : Fin 6) (s : State) : Answer := runOp .transmit (transmitByte initSeq[k] .command) s

/-- Index 0, `WRITE_COMMAND(0x33)` (42 R200). -/
def execInit0 (s : State) : Answer := sendInitWord 0 s

/-- Index 1, `WRITE_COMMAND(0x32)` (42 R201). -/
def execInit1 (s : State) : Answer := sendInitWord 1 s

/-- Index 2, `WRITE_COMMAND(0x06)` (42 R202). -/
def execInit2 (s : State) : Answer := sendInitWord 2 s

/-- Index 3, `WRITE_COMMAND(0x0C)` (42 R203). -/
def execInit3 (s : State) : Answer := sendInitWord 3 s

/-- Index 4, `WRITE_COMMAND(0x06)` again, never 0x28 (42 R204, 90 C4). -/
def execInit4 (s : State) : Answer := sendInitWord 4 s

/-- Index 5, `WRITE_COMMAND(0x01)` (42 R205). -/
def execInit5 (s : State) : Answer := sendInitWord 5 s

/-- The bus word 0x028. No operation emits it of its own accord (30 R106); a caller's command byte 0x28 is carried unchanged
like every other (30 R107). Log 14. -/
def execNotSent28 (s : State) : Answer := runOp .transmit (transmitByte 0x28 .command) s

end Sys2Proof.Machine
end

