-- ==== Sys2Proof/Machine/Sequences.lean ====
section
/-!
DEFINITION. The LCD sequences in their operation-level form: `INIT` and `WRITE_TEXT` (spec/42_lcd_sequences.md R190 to
R197).
-/

namespace Sys2Proof.Machine

/-- The byte of `INIT_SEQ` at an index; the loop of `INIT` only asks for indexes 0 to 5. -/
def initByte (k : Nat) : Byte := cellAt initSeq k

/-- `READY <- 0 ; INITIDX <- 0` (42 R190). -/
def startInit (s : State) : State := { setReady false s with initIdx := 0 }

/-- `INITIDX <- INITIDX + 1` (42 R190). -/
def nextInit (s : State) : State := { s with initIdx := s.initIdx + 1 }

/-- The loop of `INIT`, while `INITIDX < 6` (42 R190); the first argument bounds the turns. -/
def initLoop : Nat → State → State
  | 0, s => s
  | k + 1, s =>
    if s.initIdx < 6 then initLoop k (nextInit (transmitByte (initByte s.initIdx) .command s)) else s

/-- The body of `INIT()` (42 R190). -/
def initBody (s : State) : State :=
  setReady true (delay tPostClearSettle (initLoop 6 (startInit s)))

/-- `INIT()` (42 R190). -/
def execInit (s : State) : Answer := runOp .init initBody s

/-- The snapshot of `WRITE_TEXT`: `CNT`, `TXT`, `IDX` (42 R195). -/
def loadText (text : List Byte) (s : State) : State :=
  { s with cnt := text.length, txt := writeCells s.txt 0 text, idx := 0 }

/-- `IDX <- IDX + 1` (42 R195). -/
def nextText (s : State) : State := { s with idx := s.idx + 1 }

/-- The loop of `WRITE_TEXT`, while `IDX < CNT` (42 R195); the first argument bounds the turns. -/
def textLoop : Nat → State → State
  | 0, s => s
  | k + 1, s =>
    if s.idx < s.cnt then textLoop k (nextText (transmitByte (cellAt s.txt s.idx) .character s)) else s

/-- The body of `WRITE_TEXT(t, n)`, given the first `n` bytes of `t` (42 R195). -/
def textBody (text : List Byte) (s : State) : State := textLoop maxText (loadText text s)

/-- `WRITE_TEXT(t, n)` (42 R195, R196). -/
def execWriteText (t : List Byte) (n : Nat) (s : State) : Answer := runTextOp .writeText t n textBody s

end Sys2Proof.Machine
end

