-- ==== Sys2Proof/Machine/Facade.lean ====
section
/-!
DEFINITION. The facade: `LED_SET`, `BUTTON_READ`, `CONFIGURE_ALL`, `RENDER` (spec/43_facade.md R220 to R227).
-/

namespace Sys2Proof.Machine

/-- `LED_SET(s)` is `SET(PIN_LED, s)` (43 R220). -/
def execLedSet (lvl : Bool) (s : State) : Answer :=
  runOp .ledSet (fun t => setPin t.cfg.pins.led lvl t) s

/-- `READ(PIN_BUTTON)` with its result (43 R221). -/
def readButton (s : State) : State := readPinResult s.cfg.pins.button s

/-- `BUTTON_READ() -> bool` (43 R221). -/
def execButtonRead (s : State) : Answer := runOp .buttonRead readButton s

/-- The body of `CONFIGURE_ALL()` (43 R222): the eight output pins, then the button pin. -/
def configureAllBody (s : State) : State :=
  configurePins [s.cfg.pins.button] .input (configurePins s.cfg.pins.outputs .output s)

/-- `CONFIGURE_ALL()` (43 R222). -/
def execConfigureAll (s : State) : Answer := runOp .configureAll configureAllBody s

/-- The body of `RENDER(t, n)`, given the first `n` bytes of `t` (43 R224). -/
def renderBody (text : List Byte) (s : State) : State :=
  textBody text (delay tPreRenderSettle (initBody (configureAllBody s)))

/-- `RENDER(t, n)` (43 R224). -/
def execRender (t : List Byte) (n : Nat) (s : State) : Answer := runTextOp .render t n renderBody s

end Sys2Proof.Machine
end

