-- ==== Sys2Proof/Machine/Wire.lean ====
section
/-!
DEFINITION. The wire formats of the command channel (spec/30_encoding.md R110 to R112): the response, the cut of a request,
its grammar and the bounds of spec/44_command_channel.md R251; and the two table rows of format `WIRE`.
-/

namespace Sys2Proof.Machine

/-- `ws` of 30 R111. -/
def isWs (b : Byte) : Bool :=
  b == 0x20 || b == 0x09 || b == 0x0A || b == 0x0B || b == 0x0C || b == 0x0D

/-- `nonws` of 30 R111: neither white space nor 0x00. -/
def isNonWs (b : Byte) : Bool := !isWs b && b != 0

/-- `digit` of 30 R111. -/
def isDigit (b : Byte) : Bool := decide (0x30 ≤ b.toNat) && decide (b.toNat ≤ 0x39)

/-- The decimal value of a digit string, of any size (30 R111, R124 (8)). -/
def decimalValue (ds : List Byte) : Nat := ds.foldl (fun v d => 10 * v + (d.toNat - 0x30)) 0

/-- The cut of a request (30 R112): the first 32 bytes, then up to the first 0x00. -/
def cutRequest (bytes : List Byte) : List Byte := (bytes.take reqBuf).takeWhile (fun b => b != 0)

/-- The token that stands at the front of a text, and what follows it. -/
def spanToken (bs : List Byte) : List Byte × List Byte := (bs.takeWhile (fun b => !isWs b), bs.dropWhile (fun b => !isWs b))

/-- A text without its leading white space. -/
def skipWs (bs : List Byte) : List Byte := bs.dropWhile isWs

/-- `ws* token ws+ digits ws*` (30 R111): the token and the decimal value, or nothing where the request is malformed. -/
def parseRequest (bs : List Byte) : Option (List Byte × Nat) :=
  let (token, r) := spanToken (skipWs bs)
  let (digits, r) := spanToken (skipWs r)
  if token ≠ [] ∧ token.length ≤ 16 ∧ token.all isNonWs = true ∧
      digits ≠ [] ∧ digits.all isDigit = true ∧ skipWs r = [] then
    some (token, decimalValue digits)
  else none

/-- What a request renders, where it is accepted: the first `length` bytes of the token (44 R251). -/
def acceptedText (bytes : List Byte) : Option (List Byte) :=
  match parseRequest (cutRequest bytes) with
  | some (token, len) => if len ≤ token.length ∧ len ≤ maxText then some (token.take len) else none
  | none => none

/-- `REQ` and `REQLEN` written, in a buffer of this request alone (44 R250, 10 R33). -/
def storeRequest (bytes : List Byte) (s : State) : State :=
  { s with req := writeCells emptyReq 0 (bytes.take reqBuf), reqLen := (cutRequest bytes).length }

/-- `RESP` and `RESPLEN` written for the button bit `d`, in a buffer of this request alone (44 R245, 10 R33). -/
def storeResponse (d : Bool) (s : State) : State :=
  { s with resp := writeCells emptyResp 0 (responseBytes d), respLen := (responseBytes d).length }

/-- The end of a write request: "nothing is kept between requests" (10 R33, 44 R256). -/
def dropRequest (s : State) : State := { s with req := emptyReq, reqLen := 0 }

/-- The end of a read request: "nothing is kept between requests" (10 R33, 44 R256). -/
def dropResponse (s : State) : State := { s with resp := emptyResp, respLen := 0 }

/-- The row `WIRE.READ_RESP`: the response for the bit `d` (30 R110, log 13). -/
def execWireReadResp (d : Bool) (s : State) : Answer := evaluate (.bytes (responseBytes d)) s

/-- The row `WIRE.WRITE_REQ`: the request is cut and matched (30 R111, R112, log 13). -/
def execWireWriteReq (bytes : List Byte) (s : State) : Answer :=
  evaluate (.request (parseRequest (cutRequest bytes))) s

end Sys2Proof.Machine
end

