-- ==== Sys2Proof/Machine/Channel.lean ====
section
/-!
DEFINITION. The host interface: `ACTIVATE`, `DEACTIVATE`, `READ_REQ`, `WRITE_REQ` (spec/44_command_channel.md R240 to
R257).
-/

namespace Sys2Proof.Machine

/-- The body of a successful `ACTIVATE` (44 R240). -/
def activateBody (s : State) : State :=
  { configureAllBody { setReady false s with life := .active } with result := .ok }

/-- `ACTIVATE(mapped_ok)` (44 R240). Where mapping failed, `FatalMappingError` is taken (60 R285). -/
def execActivate (mappedOk : Bool) (s : State) : Answer :=
  if s.life = .active then .refused .badLifecycle
  else if s.busy then .refused .busy
  else if mappedOk then .next (finish (activateBody (beginOp .activate s)))
  else .next (raiseError .fatalMappingError s)

/-- `DEACTIVATE()` (44 R241): no register is written. -/
def execDeactivate (s : State) : Answer :=
  if s.life = .inactive ∨ s.busy = true then .refused .badLifecycle
  else .next (finish { setReady false (beginOp .deactivate s) with life := .inactive })

/-- The body of `READ_REQ()` (44 R245): the response is written to `RESP` and returned, and `RESP` ends with the request (10 R33). -/
def readReqBody (s : State) : State :=
  dropResponse { storeResponse (pinLevelNow s.cfg.pins.button s) (readPin s.cfg.pins.button s) with
    result := .bytes (responseBytes (pinLevelNow s.cfg.pins.button s)) }

/-- `READ_REQ() -> bytes` (44 R245). -/
def execReadReq (s : State) : Answer := runOp .readReq readReqBody s

/-- The end of a write request of `n` bytes that was in progress: its count is the result, now that it is over (44 R250, R253, 70 R335), and
`REQ` ends with it (10 R33). -/
def closeRequest (n : Nat) (s : State) : State := dropRequest { s with result := .count n }

/-- What `WRITE_REQ(bytes)` does with its request in `REQ` (44 R250): the accepted text is rendered, anything else is absorbed with one diagnostic;
the presented length is returned either way (44 R253). -/
def writeReqBody (bytes : List Byte) (s : State) : State :=
  match acceptedText bytes with
  | some text => { renderBody text (storeRequest bytes s) with result := .count bytes.length }
  | none => absorbError bytes.length (storeRequest bytes s)

/-- `WRITE_REQ(bytes) -> count` (44 R250); `REQ` ends with the request (10 R33). -/
def execWriteReq (bytes : List Byte) (s : State) : Answer :=
  runOp .writeReq (fun t => dropRequest (writeReqBody bytes t)) s

end Sys2Proof.Machine
end

