-- ==== Sys2Proof/Machine/Fields.lean ====
section
/-!
DEFINITION. The rows of formats `FSELF`, `PINBIT` and `NIB`, which name fields and not operations: each computes what its rule
says the field means and leaves it as the result; none appends an event or touches a register (log 13).
-/

namespace Sys2Proof.Machine

/-- A function-select code by itself: the function it gives a pin (30 R91, R93). -/
def fselCode (code : BitVec 3) (s : State) : Answer := evaluate (.function (functionOf s.cfg code)) s

/-- `FSEL.INPUT`, "input is function code 0" (30 R91). -/
def execFselInput (s : State) : Answer := fselCode fselInputCode s

/-- `FSEL.OUTPUT`, the parameter `FSEL_OUTPUT` (30 R91). -/
def execFselOutput (s : State) : Answer := fselCode s.cfg.fselOutput s

/-- `FSEL.ALT2`: "an alternate function" unless the parameter `FSEL_OUTPUT` is this code (30 R91, R93). -/
def execFselAlt2 (s : State) : Answer := fselCode 2 s

/-- `FSEL.ALT3`: "an alternate function" unless the parameter `FSEL_OUTPUT` is this code (30 R91, R93). -/
def execFselAlt3 (s : State) : Answer := fselCode 3 s

/-- `FSEL.ALT4`: "an alternate function" unless the parameter `FSEL_OUTPUT` is this code (30 R91, R93). -/
def execFselAlt4 (s : State) : Answer := fselCode 4 s

/-- `FSEL.ALT5`: "an alternate function" unless the parameter `FSEL_OUTPUT` is this code (30 R91, R93). -/
def execFselAlt5 (s : State) : Answer := fselCode 5 s

/-- `FSEL.ALT6`: "an alternate function" unless the parameter `FSEL_OUTPUT` is this code (30 R91, R93). -/
def execFselAlt6 (s : State) : Answer := fselCode 6 s

/-- `FSEL.ALT7`: "an alternate function" unless the parameter `FSEL_OUTPUT` is this code (30 R91, R93). -/
def execFselAlt7 (s : State) : Answer := fselCode 7 s

/-- `FSEL.PLACE`: the register of a pin's field, the field's mask and the placed code (30 R92). -/
def execFselPlace (p : Nat) (code : BitVec 3) (s : State) : Answer :=
  match pinOf? p with
  | some q => evaluate (.placement (fselReg q).val (fieldMask q) (fieldValue code q)) s
  | none => whenActive s (.refused .invalidPin)

/-- `PINBIT`: the bank of a pin and its one-bit word (30 R94). -/
def execPinBit (p : Nat) (s : State) : Answer :=
  match pinOf? p with
  | some q => evaluate (.pinBit (bankOf q).val (pinWord q)) s
  | none => whenActive s (.refused .invalidPin)

/-- `LATCH.SAMPLE`: what a latch event would sample from the pads as they are (30 R103); a pad the block does not drive is
free (10 R25, log 6). -/
def execLatchSample (s : State) : Answer :=
  whenActive s (.next { s with
    result := .sample (nibBits (latchOf s.cfg s.dev (Config.freeLevel s.draws)))
    draws := s.draws + 1 })

end Sys2Proof.Machine
end

