-- ==== Sys2Proof/Machine/RegAccess.lean ====
section
/-!
DEFINITION. The rows of format `REGACC`: one access to one device register, as the primitives `MemRead` and `MemWrite`
perform it inside the operations (spec/20_memory.md R66 to R69, spec/30_encoding.md R95). A direction the register does not
have is refused `BadAccess` (spec/60_exceptions.md R290, spec/93_implementation_defined.md U5). These are meanings only: no step
runs one by itself, because a primitive "cannot be requested from outside" (30 R122) and the request port of Sequencer.lean
refuses it (log 13).
-/

namespace Sys2Proof.Machine

/-- One register access taken by itself: it needs the mapped block like any access (70 R347). -/
def execAccess (r : Reg) (a : Access) (s : State) : Answer := whenActive s (accessReg r a s)

/-- `GPFSEL0`: `FSEL[0]`, read and write (20 R69). -/
def execGpfsel0 (a : Access) (s : State) : Answer := execAccess (.fsel 0) a s

/-- `GPFSEL1`: `FSEL[1]`, read and write (20 R69). -/
def execGpfsel1 (a : Access) (s : State) : Answer := execAccess (.fsel 1) a s

/-- `GPFSEL2`: `FSEL[2]`, read and write (20 R69). -/
def execGpfsel2 (a : Access) (s : State) : Answer := execAccess (.fsel 2) a s

/-- `GPFSEL3`: `FSEL[3]`, read and write (20 R69). -/
def execGpfsel3 (a : Access) (s : State) : Answer := execAccess (.fsel 3) a s

/-- `GPFSEL4`: `FSEL[4]`, read and write (20 R69). -/
def execGpfsel4 (a : Access) (s : State) : Answer := execAccess (.fsel 4) a s

/-- `GPFSEL5`: `FSEL[5]`, read and write (20 R69). -/
def execGpfsel5 (a : Access) (s : State) : Answer := execAccess (.fsel 5) a s

/-- `GPSET0`: sets bits of `OUTL[0]`, write only (20 R66). -/
def execGpset0 (a : Access) (s : State) : Answer := execAccess (.set 0) a s

/-- `GPSET1`: sets bits of `OUTL[1]`, write only (20 R66). -/
def execGpset1 (a : Access) (s : State) : Answer := execAccess (.set 1) a s

/-- `GPCLR0`: clears bits of `OUTL[0]`, write only (20 R67). -/
def execGpclr0 (a : Access) (s : State) : Answer := execAccess (.clr 0) a s

/-- `GPCLR1`: clears bits of `OUTL[1]`, write only (20 R67). -/
def execGpclr1 (a : Access) (s : State) : Answer := execAccess (.clr 1) a s

/-- `GPLEV0`: the levels of bank 0, read only (20 R68). -/
def execGplev0 (a : Access) (s : State) : Answer := execAccess (.lev 0) a s

/-- `GPLEV1`: the levels of bank 1, read only (20 R68). -/
def execGplev1 (a : Access) (s : State) : Answer := execAccess (.lev 1) a s

/-- The rows that are the primitives `MemRead` and `MemWrite` and no operations (30 R122). -/
def isAccess : Instr → Bool
  | .gpfsel0 _ | .gpfsel1 _ | .gpfsel2 _ | .gpfsel3 _ | .gpfsel4 _ | .gpfsel5 _ | .gpset0 _ | .gpset1 _ | .gpclr0 _
  | .gpclr1 _ | .gplev0 _ | .gplev1 _ => true
  | .configure _ _ | .set _ _ | .read _ | .transmit _ _ | .writeCommand _ | .writeChar _ | .init | .writeText _ _
  | .configureAll | .ledSet _ | .buttonRead | .render _ _ | .activate _ | .deactivate | .readReq | .writeReq _
  | .lcdCommand _ | .lcdChar _ | .init0 | .init1 | .init2 | .init3 | .init4 | .init5 | .notSent28 | .fselInput
  | .fselOutput | .fselAlt2 | .fselAlt3 | .fselAlt4 | .fselAlt5 | .fselAlt6 | .fselAlt7 | .fselPlace _ _ | .pinBit _
  | .latchSample | .wireReadResp _ | .wireWriteReq _ => false

end Sys2Proof.Machine
end

