-- ==== Sys2Proof/Machine/Dispatch.lean ====
section
/-!
DEFINITION. One arm per constructor of `Instr`: each a direct call of the meaning of its row.
-/

namespace Sys2Proof.Machine

def exec (i : Instr) (s : State) : Host.Outcome State Fault Refusal :=
  match i with
  | .configure pins dir => Sys2Proof.Machine.execConfigure pins dir s
  | .set p lvl => Sys2Proof.Machine.execSet p lvl s
  | .read p => Sys2Proof.Machine.execRead p s
  | .transmit b m => Sys2Proof.Machine.execTransmit b m s
  | .writeCommand b => Sys2Proof.Machine.execWriteCommand b s
  | .writeChar b => Sys2Proof.Machine.execWriteChar b s
  | .init => Sys2Proof.Machine.execInit s
  | .writeText t n => Sys2Proof.Machine.execWriteText t n s
  | .configureAll => Sys2Proof.Machine.execConfigureAll s
  | .ledSet lvl => Sys2Proof.Machine.execLedSet lvl s
  | .buttonRead => Sys2Proof.Machine.execButtonRead s
  | .render t n => Sys2Proof.Machine.execRender t n s
  | .activate ok => Sys2Proof.Machine.execActivate ok s
  | .deactivate => Sys2Proof.Machine.execDeactivate s
  | .readReq => Sys2Proof.Machine.execReadReq s
  | .writeReq bytes => Sys2Proof.Machine.execWriteReq bytes s
  | .lcdCommand b => Sys2Proof.Machine.execLcdCommand b s
  | .lcdChar b => Sys2Proof.Machine.execLcdChar b s
  | .init0 => Sys2Proof.Machine.execInit0 s
  | .init1 => Sys2Proof.Machine.execInit1 s
  | .init2 => Sys2Proof.Machine.execInit2 s
  | .init3 => Sys2Proof.Machine.execInit3 s
  | .init4 => Sys2Proof.Machine.execInit4 s
  | .init5 => Sys2Proof.Machine.execInit5 s
  | .notSent28 => Sys2Proof.Machine.execNotSent28 s
  | .gpfsel0 a => Sys2Proof.Machine.execGpfsel0 a s
  | .gpfsel1 a => Sys2Proof.Machine.execGpfsel1 a s
  | .gpfsel2 a => Sys2Proof.Machine.execGpfsel2 a s
  | .gpfsel3 a => Sys2Proof.Machine.execGpfsel3 a s
  | .gpfsel4 a => Sys2Proof.Machine.execGpfsel4 a s
  | .gpfsel5 a => Sys2Proof.Machine.execGpfsel5 a s
  | .gpset0 a => Sys2Proof.Machine.execGpset0 a s
  | .gpset1 a => Sys2Proof.Machine.execGpset1 a s
  | .gpclr0 a => Sys2Proof.Machine.execGpclr0 a s
  | .gpclr1 a => Sys2Proof.Machine.execGpclr1 a s
  | .gplev0 a => Sys2Proof.Machine.execGplev0 a s
  | .gplev1 a => Sys2Proof.Machine.execGplev1 a s
  | .fselInput => Sys2Proof.Machine.execFselInput s
  | .fselOutput => Sys2Proof.Machine.execFselOutput s
  | .fselAlt2 => Sys2Proof.Machine.execFselAlt2 s
  | .fselAlt3 => Sys2Proof.Machine.execFselAlt3 s
  | .fselAlt4 => Sys2Proof.Machine.execFselAlt4 s
  | .fselAlt5 => Sys2Proof.Machine.execFselAlt5 s
  | .fselAlt6 => Sys2Proof.Machine.execFselAlt6 s
  | .fselAlt7 => Sys2Proof.Machine.execFselAlt7 s
  | .fselPlace p code => Sys2Proof.Machine.execFselPlace p code s
  | .pinBit p => Sys2Proof.Machine.execPinBit p s
  | .latchSample => Sys2Proof.Machine.execLatchSample s
  | .wireReadResp d => Sys2Proof.Machine.execWireReadResp d s
  | .wireWriteReq bytes => Sys2Proof.Machine.execWireWriteReq bytes s

end Sys2Proof.Machine
end

