-- ==== Sys2Proof/Machine/Sequencer.lean ====
section
/-!
DEFINITION. The position-level form of the block (spec/00_scope.md R19): the sequencer position `SEQ`
(spec/10_state.md R27), its table of micro-steps (spec/41_lcd_transfer.md R162), the phases of the compound operations
(spec/42_lcd_sequences.md R190, R195, spec/43_facade.md R224), and taking what is presented. One micro-step performs the action of
its position and moves to the next. `CONFIGURE_ALL` inside `RENDER` is one position, and an operation that never enters a
byte transfer is over in the step that accepts it (log 11). Both forms append the same events.
-/

namespace Sys2Proof.Machine

/-- `SEQ.ST` and `SEQ.U` moved (41 R162). -/
def moveTo (st : ByteState) (u : Nat) (s : State) : State := { s with seq := { s.seq with st := st, u := u } }

/-- `SEQ.PHASE` moved (10 R27). -/
def enterPhase (ph : Phase) (s : State) : State := { s with seq := { s.seq with phase := ph } }

/-- The start of a transfer: `BYTE`, `MODE`, and the first position of `TRANSMIT` (41 R161, R162). -/
def startByte (b : Byte) (m : Mode) (s : State) : State := moveTo .setMode 0 (loadByte b m s)

/-- The eight positions of a nibble load (41 R162); `n` is the nibble of `BYTE` it loads. -/
def loadStep (n : Nibble) (here after : ByteState) (u : Nat) (s : State) : Option State :=
  if u < 4 then some (moveTo here (u + 1) (clearLine s u))
  else if u < 8 then
    some (if u = 7 then moveTo after 0 (raiseLine n s (u - 4)) else moveTo here (u + 1) (raiseLine n s (u - 4)))
  else none

/-- The five positions of a latch (41 R162, R165). -/
def latchStep (here after : ByteState) (u : Nat) (s : State) : Option State :=
  match u with
  | 0 => some (moveTo here 1 (delay tNibbleSettle s))
  | 1 => some (moveTo here 2 (driveE true s))
  | 2 => some (moveTo here 3 (delay tNibbleSettle s))
  | 3 => some (moveTo here 4 (driveE false s))
  | 4 => some (moveTo after 0 (delay tNibbleSettle s))
  | _ => none

/-- One position of `TRANSMIT` (the table of 41 R162); nothing where the table has no such position. The byte is over when
`ST` is idle again. -/
def byteStep (s : State) : Option State :=
  match s.seq.st with
  | .idle => none
  | .setMode => if s.seq.u = 0 then some (moveTo .loadHighNibble 0 (setModeLine s)) else none
  | .loadHighNibble => loadStep (highNibble s.byte) .loadHighNibble .latchHigh s.seq.u s
  | .latchHigh => latchStep .latchHigh .loadLowNibble s.seq.u s
  | .loadLowNibble => loadStep (lowNibble s.byte) .loadLowNibble .latchLow s.seq.u s
  | .latchLow => latchStep .latchLow .idle s.seq.u s

/-- Whether the byte in flight is over. -/
def byteOver (s : State) : Bool := decide (s.seq.st = .idle)

/-- The next position of a counted loop: its next byte where there is one, else the position `done`. -/
def nextByte (more : Bool) (b : Byte) (m : Mode) (s : State) : State :=
  if more then startByte b m s else s

/-- The first position of `INIT` (42 R190). -/
def enterInit (s : State) : State := startByte (initByte 0) .command (startInit s)

/-- After a byte of `INIT`: the next index, and its byte if there is one (42 R190). -/
def advanceInit (s : State) : State :=
  let t := nextInit s
  nextByte (decide (t.initIdx < 6)) (initByte t.initIdx) .command t

/-- One position of `INIT`: a position of its byte, or the closing delay; the flag says that `INIT` is over. -/
def initStep (s : State) : Option (State × Bool) :=
  if s.initIdx < 6 then
    match byteStep s with
    | some t => some (if byteOver t then advanceInit t else t, false)
    | none => none
  else some (setReady true (delay tPostClearSettle s), true)

/-- The first position of `WRITE_TEXT`, and whether it is over at once because no byte is to be sent (42 R195, R196). -/
def enterText (text : List Byte) (s : State) : State × Bool :=
  let t := loadText text s
  (nextByte (decide (t.idx < t.cnt)) (cellAt t.txt t.idx) .character t, decide (t.cnt = 0))

/-- After a byte of `WRITE_TEXT`: the next index, its byte if there is one, and whether the text is over (42 R195). -/
def advanceText (s : State) : State × Bool :=
  let t := nextText s
  (nextByte (decide (t.idx < t.cnt)) (cellAt t.txt t.idx) .character t, decide (t.cnt ≤ t.idx))

/-- One position of `WRITE_TEXT`; the flag says that the text is over. -/
def textStep (s : State) : Option (State × Bool) :=
  match byteStep s with
  | some t => some (if byteOver t then advanceText t else (t, false))
  | none => none

/-- The operation is over where the flag says so. -/
def finishIf (r : State × Bool) : State := if r.2 then finish r.1 else r.1

/-- `PHASE` of a lone `INIT` (42 R190): the index while a byte is in flight, then `PostClear`. -/
def initPhase (s : State) : State :=
  enterPhase (if s.initIdx < 6 then .byte s.initIdx else .postClear) s

/-- `PHASE` of a lone `WRITE_TEXT` (42 R195): the index. -/
def textPhase (s : State) : State := enterPhase (.byte s.idx) s

/-- The text of the `RENDER` in progress: its operand, or, inside `WRITE_REQ`, the text its request asks for (44 R250). -/
def textInProgress (s : State) : List Byte :=
  if s.seq.op = .writeReq then (acceptedText s.arg).getD [] else s.arg

/-- One position of `RENDER` (43 R224), alone or inside `WRITE_REQ`. Where a compound operation runs inside another, 42 R190 and R195
give `PHASE` one value (the index of the byte) and 43 R224 another (`Init`, `Text`), and 10 R27 has one `OP` and one `PHASE`:
DESIGN CHOICE (log 25), `OP` and `PHASE` stay those of the outermost operation, and the index stands in `INITIDX` or `IDX`. -/
def renderStep (s : State) : Option State :=
  match s.seq.phase with
  | .cfg => some (enterPhase .init (enterInit (configureAllBody s)))
  | .init =>
    match initStep s with
    | some (t, ended) => some (if ended then enterPhase .settle t else t)
    | none => none
  | .settle => some (finishIf (enterText (textInProgress s) (enterPhase .text (delay tPreRenderSettle s))))
  | .text => (textStep s).map finishIf
  | .none | .byte _ | .postClear => none

/-- The next state of a step that has one, or the fault of a position no rule enumerates. -/
def orIllegal : Option State → Answer
  | some s => .next s
  | none => .fault .illegalPosition

/-- One position of the operation in progress. The count of a write request is its result at its last position, when it is over
(70 R335). -/
def microStep (s : State) : Answer :=
  match s.seq.op with
  | .transmit | .writeCommand | .writeChar =>
    orIllegal ((byteStep s).map (fun t => if byteOver t then finish t else t))
  | .init =>
    orIllegal ((initStep s).map (fun r => if r.2 then finish r.1 else initPhase r.1))
  | .writeText =>
    orIllegal ((textStep s).map (fun r => if r.2 then finish r.1 else textPhase r.1))
  | .render => orIllegal (renderStep s)
  | .writeReq => orIllegal ((renderStep s).map (fun t => if t.busy then t else closeRequest s.arg.length t))
  | .idle | .configure | .set | .read | .configureAll | .ledSet | .buttonRead | .activate | .deactivate | .readReq =>
    .fault .illegalPosition

/-- `RENDER` or an accepted `WRITE_REQ` at its first phase, its operand held: the text, or the request as presented (log 12). -/
def enterRender (operand : List Byte) (s : State) : State := enterPhase .cfg { s with arg := operand }

/-- A transfer accepted as a top-level operation. -/
def launchByte (op : OpName) (b : Byte) (m : Mode) (s : State) : Answer :=
  whenActive s (.next (startByte b m (beginOp op s)))

/-- An operation accepted at position level: it stands at its first position, or is over where it has only one. -/
def launch (i : Instr) (s : State) : Answer :=
  match i with
  | .transmit b m => launchByte .transmit b m s
  | .writeCommand b => launchByte .writeCommand b .command s
  | .writeChar b => launchByte .writeChar b .character s
  | .lcdCommand b => launchByte .transmit b .command s
  | .lcdChar b => launchByte .transmit b .character s
  | .init0 => launchByte .transmit (initByte 0) .command s
  | .init1 => launchByte .transmit (initByte 1) .command s
  | .init2 => launchByte .transmit (initByte 2) .command s
  | .init3 => launchByte .transmit (initByte 3) .command s
  | .init4 => launchByte .transmit (initByte 4) .command s
  | .init5 => launchByte .transmit (initByte 5) .command s
  | .notSent28 => launchByte .transmit 0x28 .command s
  | .init => whenActive s (.next (initPhase (enterInit (beginOp .init s))))
  | .writeText t n => whenActive s (match textOf? t n with
      | some text =>
        let r := enterText text (beginOp .writeText s)
        .next (if r.2 then finish r.1 else textPhase r.1)
      | none => .refused .badOperand)
  | .render t n => whenActive s (match textOf? t n with
      | some text => .next (enterRender text (beginOp .render s))
      | none => .refused .badOperand)
  | .writeReq bytes => whenActive s (match acceptedText bytes with
      | some _ => .next (enterRender bytes (storeRequest bytes (beginOp .writeReq s)))
      | none => exec (.writeReq bytes) s)
  | .configure _ _ | .set _ _ | .read _ | .configureAll | .ledSet _ | .buttonRead | .activate _ | .deactivate | .readReq
  | .gpfsel0 _ | .gpfsel1 _ | .gpfsel2 _ | .gpfsel3 _ | .gpfsel4 _ | .gpfsel5 _ | .gpset0 _ | .gpset1 _ | .gpclr0 _
  | .gpclr1 _ | .gplev0 _ | .gplev1 _ | .fselInput | .fselOutput | .fselAlt2 | .fselAlt3 | .fselAlt4 | .fselAlt5
  | .fselAlt6 | .fselAlt7 | .fselPlace _ _ | .pinBit _ | .latchSample | .wireReadResp _ | .wireWriteReq _ => exec i s

/-- Position steps until the operation in progress is over, at most `k` of them. -/
def runPositions : Nat → State → Answer
  | 0, s => .next s
  | k + 1, s =>
    if s.busy then
      match microStep s with
      | .next t => runPositions k t
      | .fault f => .fault f
      | .refused r => .refused r
    else .next s

/-- How what is presented is run (00 R19, log 11). -/
def perform (i : Instr) (s : State) : Answer :=
  match s.grain with
  | .operation => exec i s
  | .position => launch i s

/-- A register access asked for from outside is refused after the checks of 60 R293: it is no operation (30 R122, 20 R80,
44 R257 (3)), and an offset outside the table is refused (30 R95, 20 R64). DESIGN CHOICE (log 13): that the reason is
`BadAccess`, and that it comes after `LIFE` and `BUSY`, which 60 R293 says of operations only. -/
def refuseAccess (s : State) : Answer := whenActive s (.refused .badAccess)

/-- An instruction presented to the request port: a primitive is refused, anything else is performed. -/
def performPresented (i : Instr) (s : State) : Answer := if isAccess i then refuseAccess s else perform i s

/-- Bytes that are no instruction: a register access outside the table, or no instruction of any format (log 9). -/
def rejectWord (e : DecodeError) (s : State) : Answer :=
  if e = .badOffset then refuseAccess s else .fault (.undecodable e)

/-- A word presented at this step; bytes after the instruction are not read. Presented to a busy block, every instruction is
refused by the checks it makes first (10 R31, 60 R288). -/
def takePresented (w : Presented) (s : State) : Answer :=
  match decode w with
  | .ok (i, _) => performPresented i s
  | .error e => rejectWord e s

/-- Nothing is presented at this step: the operation in progress makes its next position; with none in progress the block stays as
it is, "the sequencer does nothing until an operation is presented" (70 R321, log 19). -/
def proceed (s : State) : Answer := if s.busy then microStep s else .next s

/-- A word presented at the next step, ahead of all that is to come (log 10). -/
def present (w : Presented) (s : State) : State := { s with port := some w :: s.port }

end Sys2Proof.Machine
end

