-- ==== Sys2Proof/Machine/Step.lean ====
section
/-!
DEFINITION. One step: what the host presents at it, or, where it presents nothing, the next position of the operation in progress.
-/

namespace Sys2Proof.Machine

/-- One step of the block. -/
def step (s : State) : Host.Outcome State Fault Refusal :=
  match s.port with
  | some w :: rest => takePresented w { s with port := rest }
  | none :: rest => proceed { s with port := rest }
  | [] => proceed s

/-- The state in which the very next step runs the instruction of a table word (log 10). -/
def State.withFetchWord (s : State) (nbits w : Nat) : State := present (tableWord nbits w) s

end Sys2Proof.Machine
end

