-- ==== Sys2Proof/Machine/Views.lean ====
section
/-!
DEFINITION. What is derived from the trace and not held by the block: the device as the fold of the trace
(spec/20_memory.md R73), the pin history and the least time of each event (20 R70), the latch events and their pairing into
bus words (spec/45_bus_receiver_view.md R270, R272); and the event lists the rules of the operations give
(spec/40_gpio_bank.md, spec/41_lcd_transfer.md, spec/42_lcd_sequences.md, spec/43_facade.md), written from the rules and not from
the meanings, so that a statement may compare the two.
-/

namespace Sys2Proof.Machine

/-! ## Folds of the trace -/

/-- The device after one event: only a write to a register changes it (20 R66, R67, R69, R72). -/
def eventDevice (c : Config) (d : Device) : Event → Device
  | .wr off v =>
    match regAt c off with
    | some r => deviceWrite r v d
    | none => d
  | .rd _ _ | .bar | .dly _ | .log => d

/-- The device after a list of events, from left to right (20 R73). -/
def replay (c : Config) (d : Device) (es : List Event) : Device := es.foldl (eventDevice c) d

/-- The pin history: what the block drives on a pin after each write of the trace (20 R70); nothing where it does not drive
the pin. -/
def pinHistory (c : Config) (p : Pin) : Device → List Event → List (Option Bool)
  | _, [] => []
  | d, .wr off v :: es => pad c (eventDevice c d (.wr off v)) p :: pinHistory c p (eventDevice c d (.wr off v)) es
  | d, .rd _ _ :: es => pinHistory c p d es
  | d, .bar :: es => pinHistory c p d es
  | d, .dly _ :: es => pinHistory c p d es
  | d, .log :: es => pinHistory c p d es

/-- The least time a list of events takes: the sum of its delays (60 R300, 10 R34). -/
def elapsed : List Event → Nat
  | [] => 0
  | .dly d :: es => d + elapsed es
  | .rd _ _ :: es => elapsed es
  | .wr _ _ :: es => elapsed es
  | .bar :: es => elapsed es
  | .log :: es => elapsed es

/-- The least times of the latch events of a list of events that starts at time `t` (45 R270, 41 R166). -/
def latchTimes (c : Config) : Nat → Device → List Event → List Nat
  | _, _, [] => []
  | t, d, .dly w :: es => latchTimes c (t + w) d es
  | t, d, .wr off v :: es =>
    let d' := eventDevice c d (.wr off v)
    if fallingE c d d' then t :: latchTimes c t d' es else latchTimes c t d' es
  | t, d, .rd _ _ :: es => latchTimes c t d es
  | t, d, .bar :: es => latchTimes c t d es
  | t, d, .log :: es => latchTimes c t d es

/-- The device at each latch event of a list of events, as the write that is the falling edge leaves it (45 R270, log 17). -/
def latchDevices (c : Config) : Device → List Event → List Device
  | _, [] => []
  | d, .wr off v :: es =>
    let d' := eventDevice c d (.wr off v)
    if fallingE c d d' then d' :: latchDevices c d' es else latchDevices c d' es
  | d, .rd _ _ :: es => latchDevices c d es
  | d, .bar :: es => latchDevices c d es
  | d, .dly _ :: es => latchDevices c d es
  | d, .log :: es => latchDevices c d es

/-- How many diagnostics a list of events holds (60 R291). -/
def logEntries (es : List Event) : Nat := es.countP (fun e => e == .log)

/-- Latch events paired into bus words, mode and byte, first nibble high (45 R272): the first with the second, the third with the
fourth, and so on. R272 speaks of events that come in pairs; a `SET` of E alone makes a lone one (95 V8). DESIGN CHOICE (log 26): the pairs
are counted from the start of the list, and a last event without a second is no bus word. -/
def busWords : List Latch → List (Bool × Byte)
  | hi :: lo :: ls => (hi.rs, hi.nibble ++ lo.nibble) :: busWords ls
  | [_] => []
  | [] => []

/-! ## The events of the operations -/

/-- The events of `SET(p, level)` (40 R135). -/
def setEvents (c : Config) (p : Pin) (lvl : Bool) : List Event :=
  [.bar, .wr (offsetOf c (if lvl then .set (bankOf p) else .clr (bankOf p))) (pinWord p), .bar]

/-- The events of one register of `CONFIGURE` whose old value is `old` (40 R131). -/
def configureRegEvents (c : Config) (ps : List Pin) (dir : PinDirection) (k : Fin 6) (old : Reg32) : List Event :=
  [.rd (offsetOf c (.fsel k)) old, .wr (offsetOf c (.fsel k)) (assembled (codeOf c dir) k ps old)]

/-- The events of `CONFIGURE(S, dir)` (40 R131). -/
def configureEvents (c : Config) (d : Device) (ps : List Pin) (dir : PinDirection) : List Event :=
  .bar :: (touched ps).flatMap (fun k => configureRegEvents c ps dir k d.fsel[k]) ++ [.bar]

/-- The device after `CONFIGURE(S, dir)` (40 R131, 30 R92). -/
def configuredDevice (c : Config) (d : Device) (ps : List Pin) (dir : PinDirection) : Device :=
  { d with fsel := (touched ps).foldl (fun v (k : Fin 6) => v.set k (assembled (codeOf c dir) k ps v[k])) d.fsel }

/-- The events of `CONFIGURE_ALL()` (43 R222). -/
def configureAllEvents (c : Config) (d : Device) : List Event :=
  configureEvents c d c.pins.outputs .output ++
    configureEvents c (configuredDevice c d c.pins.outputs .output) [c.pins.button] .input

/-- The device after `CONFIGURE_ALL()` (43 R222). -/
def configuredAllDevice (c : Config) (d : Device) : Device :=
  configuredDevice c (configuredDevice c d c.pins.outputs .output) [c.pins.button] .input

/-- The events of `LOAD(n)`: four clears, then a set for each 1 bit (41 R164). -/
def loadEvents (c : Config) (n : Nibble) : List Event :=
  setEvents c c.pins.d4 false ++ setEvents c c.pins.d5 false ++ setEvents c c.pins.d6 false ++
    setEvents c c.pins.d7 false ++
    (if n.getLsbD 0 then setEvents c c.pins.d4 true else []) ++ (if n.getLsbD 1 then setEvents c c.pins.d5 true else []) ++
    (if n.getLsbD 2 then setEvents c c.pins.d6 true else []) ++ (if n.getLsbD 3 then setEvents c c.pins.d7 true else [])

/-- The events of `LATCH()` (41 R165). -/
def latchEvents (c : Config) : List Event :=
  .dly 500 :: setEvents c c.pins.e true ++ .dly 500 :: setEvents c c.pins.e false ++ [.dly 500]

/-- The events of `TRANSMIT(b, m)` (41 R161). -/
def transmitEvents (c : Config) (b : Byte) (m : Mode) : List Event :=
  setEvents c c.pins.rs m.bit ++ loadEvents c (highNibble b) ++ latchEvents c ++ loadEvents c (lowNibble b) ++
    latchEvents c

/-- The table of 41 R162, written from its rows: at (`ST`, `U`) in the transfer of `b` in mode `m`, the events of the row's action and the
row's next position; nothing where the table has no row. A position after the last of a state is the first of the next. -/
def transferRow (c : Config) (b : Byte) (m : Mode) : ByteState → Nat → Option (List Event × ByteState × Nat)
  | .setMode, 0 => some (setEvents c c.pins.rs m.bit, .loadHighNibble, 0)
  | .loadHighNibble, 0 => some (setEvents c c.pins.d4 false, .loadHighNibble, 1)
  | .loadHighNibble, 1 => some (setEvents c c.pins.d5 false, .loadHighNibble, 2)
  | .loadHighNibble, 2 => some (setEvents c c.pins.d6 false, .loadHighNibble, 3)
  | .loadHighNibble, 3 => some (setEvents c c.pins.d7 false, .loadHighNibble, 4)
  | .loadHighNibble, 4 => some (if b.getLsbD 4 then setEvents c c.pins.d4 true else [], .loadHighNibble, 5)
  | .loadHighNibble, 5 => some (if b.getLsbD 5 then setEvents c c.pins.d5 true else [], .loadHighNibble, 6)
  | .loadHighNibble, 6 => some (if b.getLsbD 6 then setEvents c c.pins.d6 true else [], .loadHighNibble, 7)
  | .loadHighNibble, 7 => some (if b.getLsbD 7 then setEvents c c.pins.d7 true else [], .latchHigh, 0)
  | .latchHigh, 0 => some ([.dly 500], .latchHigh, 1)
  | .latchHigh, 1 => some (setEvents c c.pins.e true, .latchHigh, 2)
  | .latchHigh, 2 => some ([.dly 500], .latchHigh, 3)
  | .latchHigh, 3 => some (setEvents c c.pins.e false, .latchHigh, 4)
  | .latchHigh, 4 => some ([.dly 500], .loadLowNibble, 0)
  | .loadLowNibble, 0 => some (setEvents c c.pins.d4 false, .loadLowNibble, 1)
  | .loadLowNibble, 1 => some (setEvents c c.pins.d5 false, .loadLowNibble, 2)
  | .loadLowNibble, 2 => some (setEvents c c.pins.d6 false, .loadLowNibble, 3)
  | .loadLowNibble, 3 => some (setEvents c c.pins.d7 false, .loadLowNibble, 4)
  | .loadLowNibble, 4 => some (if b.getLsbD 0 then setEvents c c.pins.d4 true else [], .loadLowNibble, 5)
  | .loadLowNibble, 5 => some (if b.getLsbD 1 then setEvents c c.pins.d5 true else [], .loadLowNibble, 6)
  | .loadLowNibble, 6 => some (if b.getLsbD 2 then setEvents c c.pins.d6 true else [], .loadLowNibble, 7)
  | .loadLowNibble, 7 => some (if b.getLsbD 3 then setEvents c c.pins.d7 true else [], .latchLow, 0)
  | .latchLow, 0 => some ([.dly 500], .latchLow, 1)
  | .latchLow, 1 => some (setEvents c c.pins.e true, .latchLow, 2)
  | .latchLow, 2 => some ([.dly 500], .latchLow, 3)
  | .latchLow, 3 => some (setEvents c c.pins.e false, .latchLow, 4)
  | .latchLow, 4 => some ([.dly 500], .idle, 0)
  | _, _ => none

/-- The events of `INIT()` (42 R190). -/
def initEvents (c : Config) : List Event :=
  transmitEvents c 0x33 .command ++ transmitEvents c 0x32 .command ++ transmitEvents c 0x06 .command ++
    transmitEvents c 0x0C .command ++ transmitEvents c 0x06 .command ++ transmitEvents c 0x01 .command ++ [.dly 500]

/-- The events of `WRITE_TEXT` for its `n` bytes (42 R195). -/
def textEvents (c : Config) (text : List Byte) : List Event := text.flatMap (fun b => transmitEvents c b .character)

/-- The events of `RENDER` for its `n` bytes (43 R224). -/
def renderEvents (c : Config) (d : Device) (text : List Byte) : List Event :=
  configureAllEvents c d ++ initEvents c ++ [.dly 500000] ++ textEvents c text

/-- The two latch events of a byte (45 R271), `rw` the level of RW. -/
def byteLatches (rw : Bool) (m : Mode) (b : Byte) : List Latch :=
  [⟨m.bit, rw, highNibble b⟩, ⟨m.bit, rw, lowNibble b⟩]

/-- The twelve latch events of `INIT` (42 R191, 45 R272). -/
def initLatches (rw : Bool) : List Latch :=
  ([3, 3, 3, 2, 0, 6, 0, 12, 0, 6, 0, 1] : List Nibble).map (fun n => ⟨false, rw, n⟩)

/-- `popcount(v)` of a byte (00 R11). -/
def popcount (b : Byte) : Nat := (List.range 8).countP (fun i => b.getLsbD i)

/-- `P`: the sum of the popcounts of a text (42 R195). -/
def textPopcount (text : List Byte) : Nat := (text.map popcount).sum

/-- A text split as the grammar of 30 R111 says: `ws* token ws+ digits ws*`. -/
def RequestForm (bs token digits : List Byte) : Prop :=
  ∃ w0 w1 w2 : List Byte, bs = w0 ++ token ++ w1 ++ digits ++ w2 ∧
    w0.all isWs = true ∧ w1 ≠ [] ∧ w1.all isWs = true ∧ w2.all isWs = true ∧
    token ≠ [] ∧ token.length ≤ 16 ∧ token.all isNonWs = true ∧ digits ≠ [] ∧ digits.all isDigit = true

end Sys2Proof.Machine
end

