-- ==== Sys2Proof/Safety.lean ====
section
/-!
DEFINITION. What counts as a safe state: the invariant every step keeps, the conditions under which an operation is
accepted, and the premises of spec/70_reset_and_hazards.md R325 in the terms statements use.
-/

namespace Sys2Proof.Machine

/-- An operation that needs nothing but `LIFE = Active` is accepted (premises `Activated` and `Serialised`, 70 R325). -/
def CanRun (s : State) : Prop := s.life = .active ∧ s.busy = false

/-- The seven pins of the display are outputs. -/
def LcdDriven (s : State) : Prop := ∀ p ∈ s.cfg.pins.lcd, pinFunction s.cfg s.dev p = .output

/-- The rows that need `LIFE = Active` (60 R287, R299): all but the two that move `LIFE`, which are refused by another name. -/
def needsActive : Instr → Bool
  | .configure _ _ | .set _ _ | .read _ | .transmit _ _ | .writeCommand _ | .writeChar _ | .init | .writeText _ _
  | .configureAll | .ledSet _ | .buttonRead | .render _ _ | .readReq | .writeReq _ | .lcdCommand _ | .lcdChar _
  | .init0 | .init1 | .init2 | .init3 | .init4 | .init5 | .notSent28 | .gpfsel0 _ | .gpfsel1 _ | .gpfsel2 _ | .gpfsel3 _
  | .gpfsel4 _ | .gpfsel5 _ | .gpset0 _ | .gpset1 _ | .gpclr0 _ | .gpclr1 _ | .gplev0 _ | .gplev1 _ | .fselInput
  | .fselOutput | .fselAlt2 | .fselAlt3 | .fselAlt4 | .fselAlt5 | .fselAlt6 | .fselAlt7 | .fselPlace _ _ | .pinBit _
  | .latchSample | .wireReadResp _ | .wireWriteReq _ => true
  | .activate _ | .deactivate => false

/-- The sixteen operations of 30 R120. -/
def isOperation : Instr → Bool
  | .configure _ _ | .set _ _ | .read _ | .transmit _ _ | .writeCommand _ | .writeChar _ | .init | .writeText _ _
  | .configureAll | .ledSet _ | .buttonRead | .render _ _ | .activate _ | .deactivate | .readReq | .writeReq _ => true
  | .lcdCommand _ | .lcdChar _ | .init0 | .init1 | .init2 | .init3 | .init4 | .init5 | .notSent28 | .gpfsel0 _
  | .gpfsel1 _ | .gpfsel2 _ | .gpfsel3 _ | .gpfsel4 _ | .gpfsel5 _ | .gpset0 _ | .gpset1 _ | .gpclr0 _ | .gpclr1 _
  | .gplev0 _ | .gplev1 _ | .fselInput | .fselOutput | .fselAlt2 | .fselAlt3 | .fselAlt4 | .fselAlt5 | .fselAlt6
  | .fselAlt7 | .fselPlace _ _ | .pinBit _ | .latchSample | .wireReadResp _ | .wireWriteReq _ => false

/-- The rows that read a level register (10 R36, row `EXT`). -/
def readsLevels : Instr → Bool
  | .read _ | .buttonRead | .readReq | .gplev0 _ | .gplev1 _ => true
  | .configure _ _ | .set _ _ | .transmit _ _ | .writeCommand _ | .writeChar _ | .init | .writeText _ _ | .configureAll
  | .ledSet _ | .render _ _ | .activate _ | .deactivate | .writeReq _ | .lcdCommand _ | .lcdChar _ | .init0 | .init1
  | .init2 | .init3 | .init4 | .init5 | .notSent28 | .gpfsel0 _ | .gpfsel1 _ | .gpfsel2 _ | .gpfsel3 _ | .gpfsel4 _
  | .gpfsel5 _ | .gpset0 _ | .gpset1 _ | .gpclr0 _ | .gpclr1 _ | .fselInput | .fselOutput | .fselAlt2 | .fselAlt3
  | .fselAlt4 | .fselAlt5 | .fselAlt6 | .fselAlt7 | .fselPlace _ _ | .pinBit _ | .latchSample | .wireReadResp _
  | .wireWriteReq _ => false

/-- The function-select rows of format `REGACC`. -/
def fselAccessRows : List ((Access → Instr) × Fin 6) :=
  [(.gpfsel0, 0), (.gpfsel1, 1), (.gpfsel2, 2), (.gpfsel3, 3), (.gpfsel4, 4), (.gpfsel5, 5)]

/-- The set rows of format `REGACC`. -/
def setAccessRows : List ((Access → Instr) × Fin 2) := [(.gpset0, 0), (.gpset1, 1)]

/-- The clear rows of format `REGACC`. -/
def clrAccessRows : List ((Access → Instr) × Fin 2) := [(.gpclr0, 0), (.gpclr1, 1)]

/-- The level rows of format `REGACC`. -/
def levAccessRows : List ((Access → Instr) × Fin 2) := [(.gplev0, 0), (.gplev1, 1)]

/-- The rows that send one command byte, with the byte (41 R170, 42 R200 to R205, 30 R106). -/
def commandRows (b : Byte) : List (Instr × Byte) :=
  [(.writeCommand b, b), (.lcdCommand b, b), (.init0, 0x33), (.init1, 0x32), (.init2, 0x06), (.init3, 0x0C),
    (.init4, 0x06), (.init5, 0x01), (.notSent28, 0x28)]

/-- A next state with a change applied; a stop stays. -/
def mapNext (f : State → State) : Answer → Answer
  | .next s => .next (f s)
  | .fault r => .fault r
  | .refused r => .refused r

/-- A position of the table of 41 R162. -/
def bytePosition (q : Seq) : Bool :=
  match q.st with
  | .idle => false
  | .setMode => decide (q.u = 0)
  | .loadHighNibble | .loadLowNibble => decide (q.u < 8)
  | .latchHigh | .latchLow => decide (q.u < 5)

/-- A position of `INIT` (42 R190): inside a byte, or the closing delay. -/
def initPosition (s : State) : Bool :=
  (decide (s.initIdx < 6) && bytePosition s.seq) || (decide (s.initIdx = 6) && decide (s.seq.st = .idle))

/-- A position of `WRITE_TEXT` (42 R195): inside a byte. -/
def textPosition (s : State) : Bool := decide (s.idx < s.cnt) && bytePosition s.seq

/-- `INIT` is in progress, alone or inside `RENDER` or `WRITE_REQ` (42 R190, 43 R224). -/
def initInProgress (s : State) : Bool :=
  match s.seq.op with
  | .init => true
  | .render | .writeReq => decide (s.seq.phase = .init)
  | .idle | .configure | .set | .read | .transmit | .writeCommand | .writeChar | .writeText | .configureAll | .ledSet | .buttonRead
  | .activate | .deactivate | .readReq => false

/-- `WRITE_TEXT` is in progress, alone or inside `RENDER` or `WRITE_REQ` (42 R195, 43 R224). -/
def writeTextInProgress (s : State) : Bool :=
  match s.seq.op with
  | .writeText => true
  | .render | .writeReq => decide (s.seq.phase = .text)
  | .idle | .configure | .set | .read | .transmit | .writeCommand | .writeChar | .init | .configureAll | .ledSet | .buttonRead
  | .activate | .deactivate | .readReq => false

/-- A position of an operation in progress (10 R27). -/
def positionLegal (s : State) : Bool :=
  match s.seq.op with
  | .transmit | .writeCommand | .writeChar => decide (s.seq.phase = .none) && bytePosition s.seq
  | .init =>
    decide (s.seq.phase = if s.initIdx < 6 then .byte s.initIdx else .postClear) && initPosition s
  | .writeText => decide (s.seq.phase = .byte s.idx) && textPosition s
  | .render | .writeReq =>
    match s.seq.phase with
    | .cfg | .settle => decide ((textInProgress s).length ≤ 16) && decide (s.seq.st = .idle)
    | .init => decide ((textInProgress s).length ≤ 16) && initPosition s
    | .text => textPosition s
    | .none | .byte _ | .postClear => false
  | .idle | .configure | .set | .read | .configureAll | .ledSet | .buttonRead | .activate | .deactivate | .readReq =>
    false

/-- The invariant of the block. -/
structure Inv (s : State) : Prop where
  /-- The parameters meet 00 R8. -/
  cfgValid : s.cfg.valid = true
  /-- "Bits 31:22 of `OUTL[1]` belong to no pin and stay 0" (10 R22). -/
  pinlessBits : s.dev.outl[1] &&& ~~~(pinMask 1) = 0
  /-- `CNT` is 0..16 (10 R29). -/
  cntBound : s.cnt ≤ 16
  /-- `IDX` counts bytes of the text already sent (10 R29). -/
  idxBound : s.idx ≤ s.cnt
  /-- `INITIDX` is 0..6 (10 R30). -/
  initIdxBound : s.initIdx ≤ 6
  /-- `REQLEN` is 0..32 (10 R33). -/
  reqLenBound : s.reqLen ≤ 32
  /-- `RESPLEN` is 0..16 (10 R33). -/
  respLenBound : s.respLen ≤ 16
  /-- `REQ` holds "the bytes of the write request in progress" and nothing is kept between requests (10 R33). -/
  requestDropped : s.seq.op ≠ .writeReq → s.req = emptyReq ∧ s.reqLen = 0
  /-- While a write request has positions, it is an accepted one, and `REQ` and `REQLEN` are what was stored of it (10 R33, 44 R250). -/
  requestHeld : s.seq.op = .writeReq → acceptedText s.arg ≠ none ∧ s = storeRequest s.arg s
  /-- `RESP` lives for one request, which is over in the step that accepts it (10 R33, 44 R256). -/
  responseDropped : s.resp = emptyResp ∧ s.respLen = 0
  /-- `READY` is cleared on every change of mode (60 R299). -/
  readyActive : s.ready = true → s.life = .active
  /-- `INIT` clears `READY` when it starts and sets it when it is over (10 R31, 42 R190). -/
  initNotReady : initInProgress s = true → s.ready = false
  /-- The result of an operation is there when it is over, not before (70 R335). -/
  resultAwaited : s.busy = true → s.result = .empty
  /-- `BUSY` is 1 exactly while an operation is in progress, at a position of it (10 R27, R31). -/
  busyPosition : s.busy = true → s.life = .active ∧ positionLegal s = true
  /-- Nothing in progress: `SEQ` idle, no operand held (70 R335). -/
  idlePosition : s.busy = false → s.seq = Seq.idle ∧ s.arg = []

end Sys2Proof.Machine
end

