-- ==== Sys2Proof/Certificates/Slice0/Obligations.lean ====
section
/-!
DEFINITION. The statements for the provers. A rule R<n> is named with its file of spec/; "log <n>" is an entry of the assumption
log. A hypothesis `CanRun s` says that the block is active and nothing is in progress.
-/

open Sys2Proof Sys2Proof.Machine

/-! ## Reset, the invariant, the step -/

/-- What power-on leaves where spec/10_state.md R41 gives a value. -/
def Obligations.PowerOnState : Prop :=
  State.reset.life = .inactive ∧ State.reset.seq = Seq.idle ∧ State.reset.busy = false ∧ State.reset.ready = false ∧
    State.reset.now = 0 ∧ State.reset.logCnt = 0 ∧ State.reset.trace = [] ∧ State.reset.latched = [] ∧
    State.reset.dev.outl[1] &&& 0xFFC00000 = 0

/-- The power-on state meets the invariant. 10 R41 gives `CNT`, `IDX`, `INITIDX`, `REQLEN`, `RESPLEN`, `REQ` and `RESP` no value: what
the invariant says of them here rests on log 3, what it says of the parameters on log 1, of `arg` on log 12. -/
def Obligations.PowerOnMeetsInvariant : Prop := Inv State.reset

/-- Every step keeps the invariant (10 R22, R27, R29 to R31, R33, 42 R190, 44 R250, R256, 60 R299, 70 R335): in particular `READY` is clear
at every position of `INIT`, and no result stands while an operation is in progress. Which operations have positions, and where
`PHASE` stands inside another operation, is the model's choice (logs 11, 25), and so is what it says of `arg` (log 12), of the cells
of `REQ` above the request (log 23) and of `result` before the operation is over (log 4). -/
def Obligations.StepKeepsInvariant : Prop :=
  ∀ s t : State, Inv s → step s = .next t → Inv t

/-- From a state that meets the invariant a step faults exactly where the bytes presented are no instruction of any format (an offset
outside the register table is none of these: it is refused). Both faults are the model's own (logs 9, 22). -/
def Obligations.FaultsOnlyOnUndecodable : Prop :=
  ∀ (s : State) (f : Fault), Inv s →
    (step s = .fault f ↔ ∃ (w : Presented) (rest : List (Option Presented)) (e : DecodeError),
      s.port = some w :: rest ∧ decode w = .error e ∧ e ≠ .badOffset ∧ f = .undecodable e)

/-- A step only appends to the trace and to the latch list; the device is the fold of the new events over the old device;
`NOW` advances by at least their delays; each `LOG` counts once; the new latch events are, one for one and in order, samples of the
device as each falling edge of E leaves it (45 R270, log 17), with free bits only for pads the block does not drive (log 6). -/
def Obligations.StepAccountsForTrace : Prop :=
  ∀ s t : State, s.cfg.valid = true → step s = .next t →
    ∃ (es : List Event) (ls : List Latch), t.trace = s.trace ++ es ∧ t.latched = s.latched ++ ls ∧
      t.dev = replay s.cfg s.dev es ∧ s.now + elapsed es ≤ t.now ∧ t.logCnt = s.logCnt + logEntries es ∧
      List.Forall₂ (fun l d => ∃ free : BitVec 64, l = latchOf s.cfg d free) ls (latchDevices s.cfg s.dev es)

/-- No step changes the parameters: the pin assignment is not state (10 R32). That the state carries them is log 1. -/
def Obligations.StepKeepsParameters : Prop :=
  ∀ s t : State, step s = .next t → t.cfg = s.cfg

/-- What a step does. A presented word that decodes to an instruction is performed, whole or as its first position, unless it is a
register access: a primitive asked for from outside is refused after the checks of `LIFE` and `BUSY` (30 R122), and so is an offset
outside the register table (30 R95). Bytes that are no instruction fault. Whatever is presented to a busy block, the step answers no
next state (10 R31, 60 R288). With nothing presented a busy block performs one position and an idle one stays as it is. How words are
presented and run, and the reason `BadAccess` in its place, are the model's choice (logs 9, 10, 11, 13, 19). -/
def Obligations.StepRunsDecodedInstruction : Prop :=
  (∀ (s : State) (w : Presented) (rest : List (Option Presented)) (i : Instr) (left : List Byte),
    s.port = some w :: rest → decode w = .ok (i, left) →
      (isAccess i = false → s.grain = .operation → step s = exec i { s with port := rest }) ∧
      (isAccess i = false → s.grain = .position → step s = launch i { s with port := rest }) ∧
      (isAccess i = true → step s = (if s.life = .inactive then .refused .useWhileUnmapped
        else if s.busy then .refused .busy else .refused .badAccess))) ∧
  (∀ (s : State) (w : Presented) (rest : List (Option Presented)) (e : DecodeError),
    s.port = some w :: rest → decode w = .error e →
      (e = .badOffset → step s = (if s.life = .inactive then .refused .useWhileUnmapped
        else if s.busy then .refused .busy else .refused .badAccess)) ∧
      (e ≠ .badOffset → step s = .fault (.undecodable e))) ∧
  (∀ (s t : State) (w : Presented) (rest : List (Option Presented)), s.busy = true → s.port = some w :: rest →
    step s ≠ .next t) ∧
  (∀ s : State, s.port = [] ∨ s.port.head? = some none →
    (s.busy = true → step s = microStep { s with port := s.port.tail }) ∧
    (s.busy = false → step s = .next { s with port := s.port.tail }))

/-! ## Encoding -/

/-- Decoding the encoding of a well-formed instruction gives it back, with no byte left. -/
def Obligations.DecodeEncodeAgree : Prop :=
  ∀ i : Instr, i.wellFormed = true → decode (encode i) = .ok (i, [])

/-- What the decoder accepts is well-formed: its operands fit the model's own layout (log 9). -/
def Obligations.DecodedIsWellFormed : Prop :=
  ∀ (w : Presented) (i : Instr) (left : List Byte), decode w = .ok (i, left) → i.wellFormed = true

/-- Words written out from the table decode to their rows: selectors 1 and 12 with their operand bytes, the bus words 0x141,
0x033 and 0x028, a write at offset 0x1C, code 1, and the response with the button bit set. The bytes of the operands and the role byte
of a bus word are the model's layout (logs 9, 15). -/
def Obligations.TableWordsDecode : Prop :=
  decode ⟨.op, [0x01, 9, 1]⟩ = .ok (.set 9 true, []) ∧ decode ⟨.op, [0x0C, 1]⟩ = .ok (.activate true, []) ∧
    decode ⟨.lcdw, [0x41, 1, 0]⟩ = .ok (.lcdChar 0x41, []) ∧ decode ⟨.lcdw, [0x33, 0, 0]⟩ = .ok (.init0, []) ∧
    decode ⟨.lcdw, [0x28, 0, 0]⟩ = .ok (.notSent28, []) ∧
    decode ⟨.regacc, [0x1C, 1, 0x00, 0x02, 0, 0]⟩ = .ok (.gpset0 (.write 0x00000200), []) ∧
    decode ⟨.fself, [0x01, 0]⟩ = .ok (.fselOutput, []) ∧
    decode ⟨.wireResponse, [0x42, 0x75, 0x74, 0x74, 0x6F, 0x6E, 0x3A, 0x20, 0x31, 0x0A]⟩ = .ok (.wireReadResp true, [])

/-! ## The GPIO bank -/

/-- `CONFIGURE(S, dir)` (40 R131): its events, each touched register `(old & ~M) | C`, nothing else. -/
def Obligations.ConfigureEffect : Prop :=
  ∀ (pins : List Nat) (ps : List Pin) (dir : PinDirection) (s : State), CanRun s → pinsOf? pins = some ps →
    ∃ t : State, exec (.configure pins dir) s = .next t ∧
      t.trace = s.trace ++ configureEvents s.cfg s.dev ps dir ∧
      (configureEvents s.cfg s.dev ps dir).length = 2 + 2 * (touched ps).length ∧
      (∀ k : Fin 6, t.dev.fsel[k] =
        if (∃ p ∈ ps, p.val / 10 = k.val) then
          (s.dev.fsel[k] &&& ~~~(regMask k ps)) ||| regValue (codeOf s.cfg dir) k ps
        else s.dev.fsel[k]) ∧
      t.dev.outl = s.dev.outl ∧
      t = { s with dev := t.dev, trace := t.trace, draws := t.draws, result := .empty, busy := false, seq := Seq.idle,
                   arg := [] }

/-- After `CONFIGURE(S, dir)` every pin of `S` has the code of `dir`, every other pin its old code, and every bit of a
function-select register outside the fields of `S` is as it was. -/
def Obligations.ConfigureWritesOnlyItsFields : Prop :=
  ∀ (pins : List Nat) (ps : List Pin) (dir : PinDirection) (s t : State), pinsOf? pins = some ps →
    exec (.configure pins dir) s = .next t →
      (∀ p ∈ ps, fieldOf t.dev p = codeOf s.cfg dir) ∧
      (∀ p : Pin, p ∉ ps → fieldOf t.dev p = fieldOf s.dev p) ∧
      (∀ (k : Fin 6) (i : Nat),
        (∀ p ∈ ps, p.val / 10 = k.val → ¬(3 * (p.val % 10) ≤ i ∧ i < 3 * (p.val % 10) + 3)) →
          (t.dev.fsel[k]).getLsbD i = (s.dev.fsel[k]).getLsbD i)

/-- `SET(p, level)` (40 R135): three events, the latch bit of `p`, no other bit; a falling edge of a driven E is a latch event.
-/
def Obligations.SetEffect : Prop :=
  ∀ (p : Pin) (lvl : Bool) (s : State), CanRun s →
    ∃ t : State, exec (.set p.val lvl) s = .next t ∧
      t.trace = s.trace ++
        [.bar, .wr (offsetOf s.cfg (if lvl then .set (bankOf p) else .clr (bankOf p))) (1#32 <<< (p.val % 32)), .bar] ∧
      (∀ q : Pin, latchBit t.dev q = if q = p then lvl else latchBit s.dev q) ∧
      t.dev.outl[1] &&& 0xFFC00000 = s.dev.outl[1] &&& 0xFFC00000 ∧
      t.dev.fsel = s.dev.fsel ∧
      t.latched = (if p = s.cfg.pins.e ∧ lvl = false ∧ pad s.cfg s.dev p = some true then
          s.latched ++ [latchOf s.cfg t.dev (Config.freeLevel s.draws)] else s.latched) ∧
      t = { s with dev := t.dev, trace := t.trace, latched := t.latched, draws := t.draws, result := .empty,
                   busy := false, seq := Seq.idle, arg := [] }

/-- `READ(p)` (40 R138): a barrier, one read of the level register, the pin's bit as the result, and no other change. -/
def Obligations.ReadEffect : Prop :=
  ∀ (p : Pin) (s : State), CanRun s →
    exec (.read p.val) s = .next
      { s with
        trace := s.trace ++ [.bar, .rd (offsetOf s.cfg (.lev (bankOf p))) (levelNow s (bankOf p))]
        result := .level ((levelNow s (bankOf p)).getLsbD (p.val % 32))
        extIn := s.extIn.tail, draws := s.draws + 1, busy := false, seq := Seq.idle, arg := [] }

/-- What `READ` returns (10 R24, 40 R139): the latch of an output pin, the drawn external level of an input pin, a free value for
any other function (log 6). -/
def Obligations.ReadReturnsLevel : Prop :=
  ∀ (p : Pin) (s t : State), exec (.read p.val) s = .next t →
    t.result = .level (match pinFunction s.cfg s.dev p with
      | .output => latchBit s.dev p
      | .input => (extNow s).getLsbD p.val
      | .alternate => (Config.freeLevel s.draws).getLsbD p.val)

/-- The loop-back property (40 R140): after `SET(p, v)` on an output pin, `READ(p)` returns `v`, and a second `SET(p, v)` leaves
the device as the first left it. -/
def Obligations.SetThenReadReturnsLevel : Prop :=
  ∀ (p : Pin) (v : Bool) (s t : State), exec (.set p.val v) s = .next t →
    (pinFunction s.cfg s.dev p = .output → ∃ u : State, exec (.read p.val) t = .next u ∧ u.result = .level v) ∧
    (∃ u : State, exec (.set p.val v) t = .next u ∧ u.dev = t.dev)

/-! ## Register accesses -/

/-- `GPFSELk` (20 R69): a read returns `FSEL[k]`; a write stores all 32 bits, takes effect at once on what each pin of the
register drives, and makes no latch event (45 R274). That an access is taken by itself is log 13. -/
def Obligations.FunctionSelectAccess : Prop :=
  ∀ (s : State) (v : Reg32), CanRun s → ∀ r ∈ fselAccessRows,
    exec (r.1 .read) s = .next
      { s with trace := s.trace ++ [.rd (offsetOf s.cfg (.fsel r.2)) s.dev.fsel[r.2]], result := .word s.dev.fsel[r.2] } ∧
    exec (r.1 (.write v)) s = .next
      { s with
        dev := { s.dev with fsel := s.dev.fsel.set r.2 v }
        trace := s.trace ++ [.wr (offsetOf s.cfg (.fsel r.2)) v]
        draws := s.draws + 1, result := .empty } ∧
    (∀ p : Pin, fselReg p = r.2 → functionOf s.cfg (v.extractLsb' (3 * (p.val % 10)) 3) = .output →
      pad s.cfg { s.dev with fsel := s.dev.fsel.set r.2 v } p = some (latchBit s.dev p))

/-- `GPSETj` written with `v` (20 R66): `OUTL[j]` gains the bits of `v` that belong to pins; every other field but the trace stays,
the latch list too, since a set write makes no E fall. That an access is taken by itself is log 13. -/
def Obligations.SetRegisterWrite : Prop :=
  ∀ (s : State) (v : Reg32), CanRun s → ∀ r ∈ setAccessRows,
    ∃ t : State, exec (r.1 (.write v)) s = .next t ∧
      (∀ p : Pin, latchBit t.dev p =
        (latchBit s.dev p || (decide (p.val / 32 = r.2.val) && v.getLsbD (p.val % 32)))) ∧
      t.dev.outl[1] &&& 0xFFC00000 = s.dev.outl[1] &&& 0xFFC00000 ∧
      t = { s with
            dev := { s.dev with outl := t.dev.outl }
            trace := s.trace ++ [.wr (offsetOf s.cfg (.set r.2)) v]
            draws := s.draws + 1, result := .empty }

/-- `GPCLRj` written with `v` (20 R67): `OUTL[j]` loses the bits of `v`; the latch list gains the event of a falling E if there is
one (45 R270), sampled after the write (log 17). That an access is taken by itself is log 13. -/
def Obligations.ClearRegisterWrite : Prop :=
  ∀ (s : State) (v : Reg32), CanRun s → ∀ r ∈ clrAccessRows,
    exec (r.1 (.write v)) s = .next
      { s with
        dev := { s.dev with outl := s.dev.outl.set r.2 (s.dev.outl[r.2] &&& ~~~v) }
        trace := s.trace ++ [.wr (offsetOf s.cfg (.clr r.2)) v]
        latched := if pad s.cfg s.dev s.cfg.pins.e = some true ∧ bankOf s.cfg.pins.e = r.2 ∧
            v.getLsbD (s.cfg.pins.e.val % 32) = true then
          s.latched ++ [latchOf s.cfg { s.dev with outl := s.dev.outl.set r.2 (s.dev.outl[r.2] &&& ~~~v) }
            (Config.freeLevel s.draws)] else s.latched
        draws := s.draws + 1, result := .empty }

/-- `GPLEVj` read (20 R68): bit `i` of the word is the level of pin `32 * j + i`; where there is no such pin it is a free bit
(log 6). No device state changes. That an access is taken by itself is log 13. -/
def Obligations.LevelRegisterRead : Prop :=
  ∀ (s : State), CanRun s → ∀ r ∈ levAccessRows, ∃ w : Reg32,
    exec (r.1 .read) s = .next
      { s with trace := s.trace ++ [.rd (offsetOf s.cfg (.lev r.2)) w], result := .word w, extIn := s.extIn.tail,
               draws := s.draws + 1 } ∧
    (∀ p : Pin, bankOf p = r.2 → w.getLsbD (p.val % 32) =
      level s.cfg s.dev (extNow s) (Config.freeLevel s.draws) p) ∧
    (∀ i : Nat, i < 32 → 54 ≤ 32 * r.2.val + i → w.getLsbD i = (Config.freeLevel s.draws).getLsbD (32 * r.2.val + i))

/-- `BadAccess` (60 R290): an access at an offset, direction or width outside the table of 30 R95 is refused, and no operation
is ever refused so. That an access is taken by itself is log 13. -/
def Obligations.BadAccessRefused : Prop :=
  (∀ (s : State) (off width : Nat) (a : Access), (width ≠ 4 ∨ off ∉ s.cfg.offsets) →
    memAccess off width a s = .refused .badAccess) ∧
  (∀ (s : State) (j : Fin 2) (v : Reg32), s.cfg.valid = true →
    memAccess (offsetOf s.cfg (.set j)) 4 .read s = .refused .badAccess ∧
    memAccess (offsetOf s.cfg (.clr j)) 4 .read s = .refused .badAccess ∧
    memAccess (offsetOf s.cfg (.lev j)) 4 (.write v) s = .refused .badAccess) ∧
  (∀ (s : State) (v : Reg32), CanRun s →
    (∀ r ∈ setAccessRows ++ clrAccessRows, exec (r.1 .read) s = .refused .badAccess) ∧
    (∀ r ∈ levAccessRows, exec (r.1 (.write v)) s = .refused .badAccess)) ∧
  (∀ (i : Instr) (s : State), isOperation i = true → exec i s ≠ .refused .badAccess)

/-! ## The byte transfer -/

/-- `TRANSMIT(b, m)` (41 R161): refused while Inactive; else its events and their number, `BYTE` and `MODE`, the levels it leaves on
its pins, at least 3000 µs, and no other change. -/
def Obligations.TransmitEffect : Prop :=
  (∀ (b : Byte) (m : Mode) (s : State), s.life = .inactive → exec (.transmit b m) s = .refused .useWhileUnmapped) ∧
  ∀ (b : Byte) (m : Mode) (s : State), s.cfg.valid = true → CanRun s →
    ∃ t : State, exec (.transmit b m) s = .next t ∧
      t.trace = s.trace ++ transmitEvents s.cfg b m ∧
      (transmitEvents s.cfg b m).length = 3 * (13 + popcount b) + 6 ∧
      latchBit t.dev s.cfg.pins.rs = m.bit ∧ latchBit t.dev s.cfg.pins.e = false ∧
      (∀ i : Nat, i < 4 → latchBit t.dev (dpin s.cfg.pins i) = b.getLsbD i) ∧
      (∀ p : Pin, p ∉ [s.cfg.pins.rs, s.cfg.pins.e, s.cfg.pins.d4, s.cfg.pins.d5, s.cfg.pins.d6, s.cfg.pins.d7] →
        latchBit t.dev p = latchBit s.dev p) ∧
      t.dev.outl[1] &&& 0xFFC00000 = s.dev.outl[1] &&& 0xFFC00000 ∧
      t.dev.fsel = s.dev.fsel ∧ s.now + 3000 ≤ t.now ∧
      t = { s with dev := t.dev, byte := b, mode := m, now := t.now, trace := t.trace, latched := t.latched,
                   draws := t.draws, result := .empty, busy := false, seq := Seq.idle, arg := [] }

/-- Headline: what one byte contributes to the receiver view (45 R271). With the seven pins driven and RW low, a transfer appends
exactly the high nibble and then the low nibble, with RS at the mode, whatever E's latch was before. -/
def Obligations.TransmitLatchesNibbles : Prop :=
  ∀ (b : Byte) (m : Mode) (s : State), s.cfg.valid = true → CanRun s → LcdDriven s →
    latchBit s.dev s.cfg.pins.rw = false →
    ∃ t : State, exec (.transmit b m) s = .next t ∧
      t.latched = s.latched ++ [⟨m.bit, false, b.extractLsb' 4 4⟩, ⟨m.bit, false, b.extractLsb' 0 4⟩]

/-- `WRITE_COMMAND`, and every bus word that stands for one command byte, is `TRANSMIT` of that byte in Command mode (41 R170);
`WRITE_CHAR` and the bus word `1 ++ b` are `TRANSMIT` of the byte in Character mode (41 R171). That a bus word is run by itself,
touching neither `INITIDX` nor `READY`, is log 13; that the word 0x028 is sent is log 14. -/
def Obligations.BusWordsAreTransmits : Prop :=
  ∀ (b : Byte) (s : State), CanRun s →
    (∀ r ∈ commandRows b, ∃ t : State, exec r.1 s = .next t ∧ exec (.transmit r.2 .command) s = .next t) ∧
    (∃ t : State, exec (.writeChar b) s = .next t ∧ exec (.lcdChar b) s = .next t ∧
      exec (.transmit b .character) s = .next t)

/-- The two latch events of a byte (41 R166): `TRANSMIT` appends events whose falling edges of E are, with every delay at its minimum,
1000 and 2500 µs after it starts. -/
def Obligations.LatchTimesOfByte : Prop :=
  ∀ (b : Byte) (m : Mode) (s : State), s.cfg.valid = true → CanRun s → LcdDriven s →
    ∃ (t : State) (es : List Event), exec (.transmit b m) s = .next t ∧ t.trace = s.trace ++ es ∧
      latchTimes s.cfg s.now s.dev es = [s.now + 1000, s.now + 2500] ∧ s.now + elapsed es ≤ t.now ∧ elapsed es = 3000

/-! ## Sequences -/

/-- `INIT()`: the events of its six bytes and its closing delay, `READY` set, and no other change (42 R190). At its first position, in
the form of log 11, it has cleared `READY` (10 R31) and begun its first byte, and nothing is appended yet. -/
def Obligations.InitEffect : Prop :=
  ∀ s : State, s.cfg.valid = true → CanRun s →
    launch .init s = .next { s with ready := false, initIdx := 0, byte := 0x33, mode := .command, result := .empty, busy := true,
                                    seq := ⟨.init, .byte 0, .setMode, 0⟩ } ∧
    ∃ t : State, exec .init s = .next t ∧ t.trace = s.trace ++ initEvents s.cfg ∧
      t.dev = replay s.cfg s.dev (initEvents s.cfg) ∧ t.dev.fsel = s.dev.fsel ∧
      t = { s with dev := t.dev, byte := 0x01, mode := .command, initIdx := 6, ready := true, now := t.now,
                   trace := t.trace, latched := t.latched, draws := t.draws, result := .empty, busy := false,
                   seq := Seq.idle, arg := [] }

/-- The totals of `INIT` (42 R191): 92 writes, no read, 184 barriers, 37 delays, 313 events, at least 18500 µs, the twelve nibbles
with RS low where the display's pins are driven, and the levels it leaves. -/
def Obligations.InitTotals : Prop :=
  ∀ s : State, s.cfg.valid = true → CanRun s →
    ∃ (t : State) (es : List Event), exec .init s = .next t ∧ t.trace = s.trace ++ es ∧ es = initEvents s.cfg ∧
      es.length = 313 ∧
      es.countP (fun e => match e with | .wr _ _ => true | _ => false) = 92 ∧
      es.countP (fun e => match e with | .rd _ _ => true | _ => false) = 0 ∧
      es.countP (fun e => e == .bar) = 184 ∧
      es.countP (fun e => match e with | .dly _ => true | _ => false) = 37 ∧
      s.now + 18500 ≤ t.now ∧
      (LcdDriven s → t.latched = s.latched ++ initLatches (latchBit s.dev s.cfg.pins.rw)) ∧
      latchBit t.dev s.cfg.pins.rs = false ∧ latchBit t.dev s.cfg.pins.e = false ∧
      latchBit t.dev s.cfg.pins.d4 = true ∧ latchBit t.dev s.cfg.pins.d5 = false ∧
      latchBit t.dev s.cfg.pins.d6 = false ∧ latchBit t.dev s.cfg.pins.d7 = false

/-- `WRITE_TEXT(t, n)` within its bounds: the snapshot, the events of its `n` bytes, and no other change. -/
def Obligations.WriteTextEffect : Prop :=
  ∀ (text : List Byte) (n : Nat) (s : State), s.cfg.valid = true → CanRun s → n ≤ text.length → n ≤ 16 →
    ∃ t : State, exec (.writeText text n) s = .next t ∧ t.trace = s.trace ++ textEvents s.cfg (text.take n) ∧
      t.dev = replay s.cfg s.dev (textEvents s.cfg (text.take n)) ∧ t.dev.fsel = s.dev.fsel ∧
      (∀ i : Fin 16, t.txt[i] = if i.val < n then text.getD i.val 0 else s.txt[i]) ∧
      s.now + 3000 * n ≤ t.now ∧
      t = { s with dev := t.dev, byte := (text.take n).getLast?.getD s.byte,
                   mode := if n = 0 then s.mode else .character, txt := t.txt, cnt := n, idx := n, now := t.now,
                   trace := t.trace, latched := t.latched, draws := t.draws, result := .empty, busy := false,
                   seq := Seq.idle, arg := [] }

/-- `WRITE_TEXT` spells its bytes (45 R272): two latch events a byte, high nibble first, in order, every one with RS high, and paired
they are the bytes. -/
def Obligations.WriteTextSpellsBytes : Prop :=
  ∀ (text : List Byte) (n : Nat) (s t : State), s.cfg.valid = true → LcdDriven s →
    exec (.writeText text n) s = .next t →
      ∃ ls : List Latch, t.latched = s.latched ++ ls ∧ ls.length = 2 * n ∧
        ls = (text.take n).flatMap (byteLatches (latchBit s.dev s.cfg.pins.rw) .character) ∧
        (∀ l ∈ ls, l.rs = true) ∧ busWords ls = (text.take n).map (fun b => (true, b))

/-! ## The facade -/

/-- `LED_SET(s)` is `SET(PIN_LED, s)` (43 R220), and no request of the channel changes the LED's latch bit. -/
def Obligations.LedSetEffect : Prop :=
  (∀ (lvl : Bool) (s : State), CanRun s →
    ∃ t : State, exec (.ledSet lvl) s = .next t ∧ exec (.set s.cfg.pins.led.val lvl) s = .next t ∧
      t.trace = s.trace ++ [.bar, .wr (offsetOf s.cfg (if lvl then .set (bankOf s.cfg.pins.led) else
        .clr (bankOf s.cfg.pins.led))) (1#32 <<< (s.cfg.pins.led.val % 32)), .bar] ∧
      latchBit t.dev s.cfg.pins.led = lvl) ∧
  (∀ (bytes : List Byte) (s t : State), s.cfg.valid = true →
    (exec (.writeReq bytes) s = .next t ∨ exec .readReq s = .next t) →
      latchBit t.dev s.cfg.pins.led = latchBit s.dev s.cfg.pins.led)

/-- `BUTTON_READ()` is `READ(PIN_BUTTON)` (43 R221): its two events, the button's bit, which is the drawn level where the pin is an
input. -/
def Obligations.ButtonReadEffect : Prop :=
  ∀ s : State, CanRun s →
    ∃ t : State, exec .buttonRead s = .next t ∧ exec (.read s.cfg.pins.button.val) s = .next t ∧
      t.trace = s.trace ++ [.bar, .rd (offsetOf s.cfg (.lev (bankOf s.cfg.pins.button)))
        (levelNow s (bankOf s.cfg.pins.button))] ∧
      t.result = .level ((levelNow s (bankOf s.cfg.pins.button)).getLsbD (s.cfg.pins.button.val % 32)) ∧
      (pinFunction s.cfg s.dev s.cfg.pins.button = .input →
        t.result = .level ((extNow s).getLsbD s.cfg.pins.button.val)) ∧
      t.dev = s.dev

/-- `CONFIGURE_ALL()` (43 R222): the events of its two calls, the eight outputs, the button an input, no other pin's field and no
latch bit changed. -/
def Obligations.ConfigureAllEffect : Prop :=
  ∀ s : State, s.cfg.valid = true → CanRun s →
    ∃ t : State, exec .configureAll s = .next t ∧ t.trace = s.trace ++ configureAllEvents s.cfg s.dev ∧
      (configureAllEvents s.cfg s.dev).length = 2 + 2 * (touched s.cfg.pins.outputs).length + 4 ∧
      1 ≤ (touched s.cfg.pins.outputs).length ∧ (touched s.cfg.pins.outputs).length ≤ 6 ∧
      (∀ p ∈ s.cfg.pins.outputs, fieldOf t.dev p = s.cfg.fselOutput) ∧
      fieldOf t.dev s.cfg.pins.button = 0 ∧
      (∀ (k : Fin 6) (i : Nat),
        (∀ p ∈ s.cfg.pins.all, p.val / 10 = k.val → ¬(3 * (p.val % 10) ≤ i ∧ i < 3 * (p.val % 10) + 3)) →
          (t.dev.fsel[k]).getLsbD i = (s.dev.fsel[k]).getLsbD i) ∧
      t.dev.outl = s.dev.outl ∧
      t = { s with dev := t.dev, trace := t.trace, draws := t.draws, result := .empty, busy := false, seq := Seq.idle,
                   arg := [] }

/-- `RENDER(t, n)` within its bounds: the events of its four parts, `READY` set, and no other change. -/
def Obligations.RenderEffect : Prop :=
  ∀ (text : List Byte) (n : Nat) (s : State), s.cfg.valid = true → CanRun s → n ≤ text.length → n ≤ 16 →
    ∃ t : State, exec (.render text n) s = .next t ∧
      t.trace = s.trace ++ renderEvents s.cfg s.dev (text.take n) ∧
      t.dev = replay s.cfg s.dev (renderEvents s.cfg s.dev (text.take n)) ∧
      (∀ i : Fin 16, t.txt[i] = if i.val < n then text.getD i.val 0 else s.txt[i]) ∧
      t = { s with dev := t.dev, byte := (text.take n).getLast?.getD 0x01,
                   mode := if n = 0 then .command else .character, txt := t.txt, cnt := n, idx := n, initIdx := 6,
                   ready := true, now := t.now, trace := t.trace, latched := t.latched, draws := t.draws,
                   result := .empty, busy := false, seq := Seq.idle, arg := [] }

/-- Headline: the totals of `RENDER(t, n)` (43 R225): the number of events and of `SET` operations, the least duration, and the
latch stream, which is the twelve nibbles of `INIT` with RS low and then the nibbles of the text with RS high, whatever the
pins' modes were before. -/
def Obligations.RenderTotals : Prop :=
  ∀ (text : List Byte) (n : Nat) (s : State), s.cfg.valid = true → CanRun s → n ≤ text.length → n ≤ 16 →
    ∃ (t : State) (es : List Event), exec (.render text n) s = .next t ∧ t.trace = s.trace ++ es ∧
      es.length = (6 + 2 * (touched s.cfg.pins.outputs).length) + 313 + 1 + 45 * n + 3 * textPopcount (text.take n) ∧
      es.countP (fun e => match e with | .wr _ _ => true | _ => false) =
        ((touched s.cfg.pins.outputs).length + 1) + (92 + 13 * n + textPopcount (text.take n)) ∧
      s.now + (18500 + 500000 + 3000 * n) ≤ t.now ∧
      t.latched = s.latched ++ initLatches (latchBit s.dev s.cfg.pins.rw) ++
        (text.take n).flatMap (byteLatches (latchBit s.dev s.cfg.pins.rw) .character)

/-- `INIT`, `WRITE_TEXT`, `RENDER` and `WRITE_REQ` write the latch bits of RS, E and the four data lines and no other (42, 43 R227); the
LED in particular keeps its level. The first two write no function-select register. -/
def Obligations.SequencesKeepOtherLatches : Prop :=
  ∀ (i : Instr) (s t : State), s.cfg.valid = true →
    (i = .init ∨ (∃ text n, i = .writeText text n) ∨ (∃ text n, i = .render text n) ∨ (∃ bytes, i = .writeReq bytes)) →
    exec i s = .next t →
      (∀ p : Pin, p ∉ [s.cfg.pins.rs, s.cfg.pins.e, s.cfg.pins.d4, s.cfg.pins.d5, s.cfg.pins.d6, s.cfg.pins.d7] →
        latchBit t.dev p = latchBit s.dev p) ∧
      t.dev.outl[1] &&& 0xFFC00000 = s.dev.outl[1] &&& 0xFFC00000 ∧
      ((i = .init ∨ ∃ text n, i = .writeText text n) → t.dev.fsel = s.dev.fsel)

/-! ## The command channel -/

/-- `ACTIVATE(mapped_ok)` (44 R240): refused while Active; on success Active, not ready, the events of `CONFIGURE_ALL`; on failure
`FatalMappingError` and no other change. -/
def Obligations.ActivateEffect : Prop :=
  (∀ (s : State) (ok : Bool), s.life = .active → exec (.activate ok) s = .refused .badLifecycle) ∧
  (∀ s : State, s.cfg.valid = true → s.life = .inactive → s.busy = false →
    ∃ t : State, exec (.activate true) s = .next t ∧ t.trace = s.trace ++ configureAllEvents s.cfg s.dev ∧
      t.dev = replay s.cfg s.dev (configureAllEvents s.cfg s.dev) ∧
      t = { s with dev := t.dev, life := .active, ready := false, trace := t.trace, draws := t.draws, result := .ok,
                   busy := false, seq := Seq.idle, arg := [] }) ∧
  (∀ s : State, s.life = .inactive → s.busy = false →
    exec (.activate false) s = .next { s with result := .error .fatalMappingError })

/-- The values after a successful `ACTIVATE`, after a failed one and after `DEACTIVATE` (10 R42). -/
def Obligations.ValuesAfterLifecycle : Prop :=
  (∀ s t : State, s.cfg.valid = true → exec (.activate true) s = .next t →
    t.life = .active ∧ t.ready = false ∧ t.busy = false ∧ t.seq = Seq.idle ∧
      (∀ p ∈ s.cfg.pins.outputs, pinFunction t.cfg t.dev p = .output) ∧
      pinFunction t.cfg t.dev s.cfg.pins.button = .input ∧
      (∀ (k : Fin 6) (i : Nat),
        (∀ p ∈ s.cfg.pins.all, p.val / 10 = k.val → ¬(3 * (p.val % 10) ≤ i ∧ i < 3 * (p.val % 10) + 3)) →
          (t.dev.fsel[k]).getLsbD i = (s.dev.fsel[k]).getLsbD i) ∧
      t.dev.outl = s.dev.outl) ∧
  (∀ s t : State, exec (.activate false) s = .next t → { t with result := s.result } = s) ∧
  (∀ s t : State, exec .deactivate s = .next t → t.life = .inactive ∧ t.ready = false ∧ t.dev = s.dev)

/-- `DEACTIVATE()`: Inactive, not ready, no event, no register. -/
def Obligations.DeactivateEffect : Prop :=
  ∀ s : State, CanRun s →
    exec .deactivate s = .next
      { s with life := .inactive, ready := false, result := .empty, busy := false, seq := Seq.idle, arg := [] }

/-- `READ_REQ()` (44 R245): a barrier, one level read, the ten bytes `"Button: 0\n"` or `"Button: 1\n"` by the button's bit, written to
`RESP[0..RESPLEN-1]`, `RESPLEN` 10, and returned; no other change. 44 R245 leaves `RESP` and `RESPLEN` so; that they end with the
request, which lives no longer (10 R33), and are shown empty in the state after it, is the model's choice (log 23). -/
def Obligations.ReadReqEffect : Prop :=
  ∀ s : State, CanRun s →
    ∃ (t : State) (d : Bool), exec .readReq s = .next t ∧
      d = (levelNow s (bankOf s.cfg.pins.button)).getLsbD (s.cfg.pins.button.val % 32) ∧
      t.result = .bytes ([0x42, 0x75, 0x74, 0x74, 0x6F, 0x6E, 0x3A, 0x20] ++ [if d then 0x31 else 0x30] ++ [0x0A]) ∧
      (storeResponse d s).respLen = 10 ∧
      t.result = .bytes ((storeResponse d s).resp.toList.take (storeResponse d s).respLen) ∧
      t = { s with
            trace := s.trace ++ [.bar, .rd (offsetOf s.cfg (.lev (bankOf s.cfg.pins.button)))
              (levelNow s (bankOf s.cfg.pins.button))]
            resp := emptyResp, respLen := 0, result := t.result, extIn := s.extIn.tail, draws := s.draws + 1,
            busy := false, seq := Seq.idle, arg := [] }

/-- An accepted `WRITE_REQ` renders its text: the events of `RENDER`, the presented length as the result, and no other change; while it
is in progress (the form of log 11) `REQ` holds the request, and there is no result yet (70 R335, log 4). That `REQ` ends with its
request (10 R33) and is shown as zeros after it, as its cells above the request are, is the model's choice (log 23). -/
def Obligations.WriteReqAccepted : Prop :=
  ∀ (bytes text : List Byte) (s : State), s.cfg.valid = true → CanRun s → acceptedText bytes = some text →
    (∃ t u : State, exec (.writeReq bytes) s = .next t ∧ exec (.render text text.length) s = .next u ∧
      t.trace = s.trace ++ renderEvents s.cfg s.dev text ∧
      t = { u with req := emptyReq, reqLen := 0, result := .count bytes.length }) ∧
    ∃ t : State, launch (.writeReq bytes) s = .next t ∧ t.busy = true ∧ t.seq.op = .writeReq ∧ t.result = .empty ∧
      (∀ i : Fin 32, t.req[i] = if i.val < bytes.length then bytes.getD i.val 0 else 0) ∧
      t.reqLen = (cutRequest bytes).length ∧ t.req.toList.take t.reqLen = cutRequest bytes

/-- What rejection means (44 R252): one `LOG`, no other event, no device register, `READY` as it was, the same result as an accepted
request. That its `REQ` has ended with it (10 R33) and is shown as zeros is the model's choice (log 23). -/
def Obligations.WriteReqRejected : Prop :=
  ∀ (bytes : List Byte) (s : State), CanRun s → acceptedText bytes = none →
    exec (.writeReq bytes) s = .next
      { s with trace := s.trace ++ [.log], logCnt := s.logCnt + 1, req := emptyReq, reqLen := 0,
               result := .count bytes.length, busy := false, seq := Seq.idle, arg := [] }

/-- A write always succeeds with the length of the request as presented (44 R253). -/
def Obligations.WriteReqReturnsPresentedLength : Prop :=
  ∀ (bytes : List Byte) (s : State), CanRun s →
    ∃ t : State, exec (.writeReq bytes) s = .next t ∧ t.result = .count bytes.length

/-- The grammar of 30 R111: a request matches exactly where it splits as `ws* token ws+ digits ws*`, and then the token and the
decimal value are that split's. -/
def Obligations.RequestGrammar : Prop :=
  ∀ (bs token : List Byte) (n : Nat),
    parseRequest bs = some (token, n) ↔ ∃ digits : List Byte, RequestForm bs token digits ∧ n = decimalValue digits

/-- A request is accepted exactly where it matches with a length of at most the token's and at most 16, and then its first `length`
bytes are rendered. -/
def Obligations.RequestValidation : Prop :=
  ∀ bytes text : List Byte, acceptedText bytes = some text ↔
    ∃ (token digits : List Byte), RequestForm (cutRequest bytes) token digits ∧ decimalValue digits ≤ token.length ∧
      decimalValue digits ≤ 16 ∧ text = token.take (decimalValue digits)

/-- The cut of a request (30 R112): the first 32 bytes, ended before the first 0x00. `REQ` holds the first 32 bytes and no byte of an
earlier request, `REQ[0..REQLEN-1]` is the cut, and the cut is what is matched (44 R250). The zeros above the request are the model's
choice (log 23), and so are that the row of a write request is run by itself (log 13) and the state in progress (log 11). -/
def Obligations.RequestCut : Prop :=
  ∀ (bytes : List Byte) (s : State), CanRun s →
    ∃ cut rest : List Byte, bytes.take 32 = cut ++ rest ∧ (0 : Byte) ∉ cut ∧ (rest = [] ∨ rest.head? = some 0) ∧
      (storeRequest bytes s).reqLen = cut.length ∧
      (storeRequest bytes s).req.toList.take (storeRequest bytes s).reqLen = cut ∧
      (∀ i : Fin 32, (storeRequest bytes s).req[i] = if i.val < bytes.length then bytes.getD i.val 0 else 0) ∧
      (∃ t : State, exec (.wireWriteReq bytes) s = .next t ∧ t.result = .request (parseRequest cut)) ∧
      (acceptedText bytes = none → ∃ t : State, exec (.writeReq bytes) s = .next t ∧ t.trace = s.trace ++ [.log]) ∧
      (∀ text : List Byte, acceptedText bytes = some text → ∃ (t : State) (n : Nat), launch (.writeReq bytes) s = .next t ∧
        t.reqLen = cut.length ∧ t.req.toList.take t.reqLen = cut ∧ (∃ token, parseRequest cut = some (token, n) ∧ text = token.take n))

/-- The document's three examples (44 R254): `"hello 5"` is `RENDER("hello", 5)`; `"hi 9"` and `"a b c"` append one `LOG` and nothing
else. -/
def Obligations.DocumentRequests : Prop :=
  ∀ s : State, s.cfg.valid = true → CanRun s →
    (∃ t : State, exec (.writeReq [0x68, 0x65, 0x6C, 0x6C, 0x6F, 0x20, 0x35]) s = .next t ∧
      t.trace = s.trace ++ renderEvents s.cfg s.dev [0x68, 0x65, 0x6C, 0x6C, 0x6F]) ∧
    (∃ t : State, exec (.writeReq [0x68, 0x69, 0x20, 0x39]) s = .next t ∧ t.trace = s.trace ++ [.log] ∧ t.dev = s.dev) ∧
    (∃ t : State, exec (.writeReq [0x61, 0x20, 0x62, 0x20, 0x63]) s = .next t ∧ t.trace = s.trace ++ [.log] ∧
      t.dev = s.dev)

/-! ## Fields and formats -/

/-- The rows of function-select codes leave the function of their code and change nothing else, for every output code (00 R8): an
`FSEL.ALTk` row whose code is the output code leaves output (log 20). That a row is run by itself is log 13. -/
def Obligations.FunctionCodesEvaluated : Prop :=
  ∀ s : State, s.cfg.valid = true → CanRun s →
    exec .fselInput s = .next { s with result := .function .input } ∧
    exec .fselOutput s = .next { s with result := .function .output } ∧
    (∀ r ∈ [(Instr.fselAlt2, (2 : BitVec 3)), (.fselAlt3, 3), (.fselAlt4, 4), (.fselAlt5, 5), (.fselAlt6, 6), (.fselAlt7, 7)],
      exec r.1 s = .next { s with result := .function (if r.2 = s.cfg.fselOutput then .output else .alternate) })

/-- The placement of a field and the bit of a pin leave the words of 30 R92 and R94 and change nothing else (log 13); a pin above
53 is refused. -/
def Obligations.PlacementAndPinBitEvaluated : Prop :=
  (∀ (p : Pin) (code : BitVec 3) (s : State), CanRun s →
    exec (.fselPlace p.val code) s = .next
      { s with result := .placement (p.val / 10) (7#32 <<< (3 * (p.val % 10))) (code.setWidth 32 <<< (3 * (p.val % 10))) } ∧
    exec (.pinBit p.val) s = .next { s with result := .pinBit (p.val / 32) (1#32 <<< (p.val % 32)) }) ∧
  (∀ (p : Nat) (code : BitVec 3) (s : State), CanRun s → 54 ≤ p →
    exec (.fselPlace p code) s = .refused .invalidPin ∧ exec (.pinBit p) s = .refused .invalidPin)

/-- `LATCH.SAMPLE` leaves `rs ++ rw ++ d7 ++ d6 ++ d5 ++ d4` (30 R103), each the latch bit of a pin the block drives and a free bit for
one it does not drive (10 R25, log 6), and changes nothing else but the count of draws (log 13). -/
def Obligations.LatchSampleEvaluated : Prop :=
  ∀ s : State, CanRun s →
    ∃ v : BitVec 6, exec .latchSample s = .next { s with result := .sample v, draws := s.draws + 1 } ∧
      ∀ r ∈ [(s.cfg.pins.rs, 5), (s.cfg.pins.rw, 4), (s.cfg.pins.d7, 3), (s.cfg.pins.d6, 2), (s.cfg.pins.d5, 1),
          (s.cfg.pins.d4, 0)],
        v.getLsbD r.2 = if pinFunction s.cfg s.dev r.1 = .output then latchBit s.dev r.1
          else (Config.freeLevel s.draws).getLsbD r.1.val

/-- The rows of format `WIRE`: the response is the ten bytes with the digit of its bit (30 R110); a request is cut and matched (30 R111,
R112). They change nothing else (log 13). -/
def Obligations.WireRowsEvaluated : Prop :=
  ∀ s : State, CanRun s →
    (∀ d : Bool, exec (.wireReadResp d) s = .next
      { s with result := .bytes [0x42, 0x75, 0x74, 0x74, 0x6F, 0x6E, 0x3A, 0x20, if d then 0x31 else 0x30, 0x0A] }) ∧
    (∀ bytes : List Byte, exec (.wireWriteReq bytes) s = .next
      { s with result := .request (parseRequest (cutRequest bytes)) })

/-! ## The whole machine -/

/-- Only `ACTIVATE` and `DEACTIVATE` change `LIFE`, and every other operation requires it to be Active (10 R26). -/
def Obligations.OnlyLifecycleChangesLife : Prop :=
  (∀ (i : Instr) (s t : State), exec i s = .next t →
    (t.life = s.life ∨ (i = .activate true ∧ t.life = .active) ∨ (i = .deactivate ∧ t.life = .inactive))) ∧
  (∀ (i : Instr) (s : State), s.life = .inactive → isOperation i = true → (∀ ok : Bool, i ≠ .activate ok) → i ≠ .deactivate →
    exec i s = .refused .useWhileUnmapped)

/-- The order of the checks (60 R293): `LIFE` before `BUSY` before the operands; a busy block refuses whatever is presented, the two
lifecycle operations by their own name (log 16). -/
def Obligations.ChecksInOrder : Prop :=
  (∀ (i : Instr) (s : State), s.life = .inactive → needsActive i = true → exec i s = .refused .useWhileUnmapped) ∧
  (∀ (i : Instr) (s : State), s.life = .active → s.busy = true →
    exec i s = (match i with
      | .activate _ => .refused .badLifecycle
      | .deactivate => .refused .badLifecycle
      | _ => .refused .busy)) ∧
  (∀ s : State, s.life = .inactive → exec .deactivate s = .refused .badLifecycle) ∧
  (∀ (ok : Bool) (s : State), s.life = .inactive → s.busy = true → exec (.activate ok) s = .refused .busy)

/-- Operand refusals (60 R289): where they arise, and that no other operation, in particular neither request of the channel, meets
one. -/
def Obligations.OperandsRefused : Prop :=
  (∀ (p : Nat) (lvl : Bool) (s : State), CanRun s → 54 ≤ p →
    exec (.set p lvl) s = .refused .invalidPin ∧ exec (.read p) s = .refused .invalidPin) ∧
  (∀ (pins : List Nat) (dir : PinDirection) (s : State), CanRun s → (∃ p ∈ pins, 54 ≤ p) →
    exec (.configure pins dir) s = .refused .invalidPin) ∧
  (∀ (text : List Byte) (n : Nat) (s : State), CanRun s → (text.length < n ∨ 16 < n) →
    exec (.writeText text n) s = .refused .badOperand ∧ exec (.render text n) s = .refused .badOperand) ∧
  (∀ (i : Instr) (s : State), isOperation i = true →
    (exec i s = .refused .invalidPin →
      (∃ pins dir, i = .configure pins dir) ∨ (∃ p lvl, i = .set p lvl) ∨ ∃ p, i = .read p) ∧
    (exec i s = .refused .badOperand → (∃ text n, i = .writeText text n) ∨ ∃ text n, i = .render text n))

/-- `FatalMappingError` (60 R285) is the result of `ACTIVATE` alone, where mapping failed, and changes nothing else. -/
def Obligations.FatalMappingErrorOnlyFromActivate : Prop :=
  (∀ s : State, s.life = .inactive → s.busy = false →
    exec (.activate false) s = .next { s with result := .error .fatalMappingError }) ∧
  (∀ (i : Instr) (s t : State) (e : Error), exec i s = .next t → t.result = .error e →
    i = .activate false ∧ e = .fatalMappingError)

/-- No instruction but `SET` of the RW pin itself and a bare write to a set or clear register changes RW's latch bit. -/
def Obligations.RwLatchNeverWritten : Prop :=
  ∀ (i : Instr) (s t : State), s.cfg.valid = true → exec i s = .next t →
    (∀ lvl : Bool, i ≠ .set s.cfg.pins.rw.val lvl) →
    (∀ (v : Reg32), ∀ r ∈ setAccessRows ++ clrAccessRows, i ≠ r.1 (.write v)) →
      latchBit t.dev s.cfg.pins.rw = latchBit s.dev s.cfg.pins.rw

/-- Pins outside the nine keep their field and their latch bit under every instruction but the three of the GPIO bank that name a pin
and the bare register writes. -/
def Obligations.ForeignPinsKept : Prop :=
  ∀ (i : Instr) (s t : State) (p : Pin), s.cfg.valid = true → exec i s = .next t → p ∉ s.cfg.pins.all →
    (∀ (pins : List Nat) (dir : PinDirection), i ≠ .configure pins dir) →
    (∀ (q : Nat) (lvl : Bool), i ≠ .set q lvl) →
    (∀ (v : Reg32), ∀ r ∈ fselAccessRows, i ≠ r.1 (.write v)) →
    (∀ (v : Reg32), ∀ r ∈ setAccessRows ++ clrAccessRows, i ≠ r.1 (.write v)) →
      fieldOf t.dev p = fieldOf s.dev p ∧ latchBit t.dev p = latchBit s.dev p

/-- Over a whole completed operation `READY` comes to be set only by `INIT` and what runs it, and comes to be clear only by the two
lifecycle operations; that `INIT` clears it at its start and sets it at its end (10 R31, 42 R190) is inside the operation. -/
def Obligations.ReadyWrittenOnlyByInitAndLifecycle : Prop :=
  ∀ (i : Instr) (s t : State), exec i s = .next t → t.ready ≠ s.ready →
    (i = .init ∧ t.ready = true) ∨ (∃ text n, i = .render text n ∧ t.ready = true) ∨
    (∃ bytes, i = .writeReq bytes ∧ t.ready = true) ∨ (i = .activate true ∧ t.ready = false) ∨
    (i = .deactivate ∧ t.ready = false)

/-- The external levels reach only the rows that read a level register: every other instruction does the same whatever levels are to
come, and leaves them to come. -/
def Obligations.ExternalLevelsReachOnlyReads : Prop :=
  ∀ (i : Instr) (s : State) (ext : List (BitVec 54)), readsLevels i = false →
    exec i { s with extIn := ext } = mapNext (fun t => { t with extIn := ext }) (exec i s)

/-- Headline: the position-level form and the operation-level form of every instruction agree (00 R19, section 6): it is refused in both or
accepted in both, and the positions end in the state the whole operation answers, with the same trace. -/
def Obligations.PositionsAgreeWithOperations : Prop :=
  ∀ (i : Instr) (s : State),
    (∀ r : Refusal, exec i s = .refused r ↔ launch i s = .refused r) ∧
    (∀ t : State, exec i s = .next t → t.busy = false ∧
      ∃ (s₁ : State) (k : Nat), launch i s = .next s₁ ∧ runPositions k s₁ = .next t)

/-- A transfer takes exactly 27 positions (41 R162), and after them it has done what the whole operation does. And at each position of the
table, in whatever operation the transfer is, a micro-step appends exactly the events of that row and moves to the row's next
position, changing nothing but what those events change; after the last row a lone transfer is over, and `INIT` and `WRITE_TEXT` go
on to their next index and its byte, or to what follows their last (42 R190, R195). Which operations have positions is log 11, and
where `OP` and `PHASE` stand inside another operation log 25. -/
def Obligations.TransmitTakes27Positions : Prop :=
  (∀ (b : Byte) (m : Mode) (s : State), CanRun s →
    ∃ s₁ s₂ t : State, launch (.transmit b m) s = .next s₁ ∧ runPositions 26 s₁ = .next s₂ ∧ s₂.busy = true ∧
      microStep s₂ = .next t ∧ t.busy = false ∧ exec (.transmit b m) s = .next t) ∧
  (∀ (s : State) (es : List Event) (st : ByteState) (u : Nat), s.cfg.valid = true → s.busy = true → positionLegal s = true →
    transferRow s.cfg s.byte s.mode s.seq.st s.seq.u = some (es, st, u) →
    ∃ t : State, microStep s = .next t ∧ t.trace = s.trace ++ es ∧ t.dev = replay s.cfg s.dev es ∧ s.now + elapsed es ≤ t.now ∧
      (st ≠ .idle → t = { s with dev := t.dev, now := t.now, trace := t.trace, latched := t.latched, draws := t.draws,
                                 seq := { s.seq with st := st, u := u } }) ∧
      (st = .idle → s.seq.op ∈ [OpName.transmit, .writeCommand, .writeChar] → t.busy = false ∧ t.seq = Seq.idle) ∧
      (st = .idle → initInProgress s = true → t.busy = true ∧ t.seq.op = s.seq.op ∧ t.initIdx = s.initIdx + 1 ∧
        (if t.initIdx < 6 then t.seq.st = .setMode ∧ t.seq.u = 0 ∧ t.byte = initByte t.initIdx ∧ t.mode = .command
          else t.seq.st = .idle)) ∧
      (st = .idle → writeTextInProgress s = true → t.idx = s.idx + 1 ∧
        (if t.idx < s.cnt then t.busy = true ∧ t.seq.op = s.seq.op ∧ t.seq.st = .setMode ∧ t.seq.u = 0 ∧
            t.byte = cellAt s.txt t.idx ∧ t.mode = .character
          else t.busy = false ∧ t.seq = Seq.idle)))
end

