-- ==== Sys2Proof/Laws/State.lean ====
section
/-!
SUPPORT. What each update of the state does to each field: one lemma per field per update, each true by computation, so that
no later proof unfolds a record update.
-/

namespace Sys2Proof.Machine

/-! ### `emit` -/

@[simp] theorem emit_dev (e : Event) (s : State) : (emit e s).dev = s.dev := rfl
@[simp] theorem emit_life (e : Event) (s : State) : (emit e s).life = s.life := rfl
@[simp] theorem emit_seq (e : Event) (s : State) : (emit e s).seq = s.seq := rfl
@[simp] theorem emit_byte (e : Event) (s : State) : (emit e s).byte = s.byte := rfl
@[simp] theorem emit_mode (e : Event) (s : State) : (emit e s).mode = s.mode := rfl
@[simp] theorem emit_txt (e : Event) (s : State) : (emit e s).txt = s.txt := rfl
@[simp] theorem emit_cnt (e : Event) (s : State) : (emit e s).cnt = s.cnt := rfl
@[simp] theorem emit_idx (e : Event) (s : State) : (emit e s).idx = s.idx := rfl
@[simp] theorem emit_initIdx (e : Event) (s : State) : (emit e s).initIdx = s.initIdx := rfl
@[simp] theorem emit_ready (e : Event) (s : State) : (emit e s).ready = s.ready := rfl
@[simp] theorem emit_busy (e : Event) (s : State) : (emit e s).busy = s.busy := rfl
@[simp] theorem emit_req (e : Event) (s : State) : (emit e s).req = s.req := rfl
@[simp] theorem emit_reqLen (e : Event) (s : State) : (emit e s).reqLen = s.reqLen := rfl
@[simp] theorem emit_resp (e : Event) (s : State) : (emit e s).resp = s.resp := rfl
@[simp] theorem emit_respLen (e : Event) (s : State) : (emit e s).respLen = s.respLen := rfl
@[simp] theorem emit_now (e : Event) (s : State) : (emit e s).now = s.now := rfl
@[simp] theorem emit_trace (e : Event) (s : State) : (emit e s).trace = s.trace ++ [e] := rfl
@[simp] theorem emit_logCnt (e : Event) (s : State) : (emit e s).logCnt = s.logCnt := rfl
@[simp] theorem emit_latched (e : Event) (s : State) : (emit e s).latched = s.latched := rfl
@[simp] theorem emit_result (e : Event) (s : State) : (emit e s).result = s.result := rfl
@[simp] theorem emit_cfg (e : Event) (s : State) : (emit e s).cfg = s.cfg := rfl
@[simp] theorem emit_port (e : Event) (s : State) : (emit e s).port = s.port := rfl
@[simp] theorem emit_grain (e : Event) (s : State) : (emit e s).grain = s.grain := rfl
@[simp] theorem emit_arg (e : Event) (s : State) : (emit e s).arg = s.arg := rfl
@[simp] theorem emit_extIn (e : Event) (s : State) : (emit e s).extIn = s.extIn := rfl
@[simp] theorem emit_draws (e : Event) (s : State) : (emit e s).draws = s.draws := rfl

/-! ### `barrier` -/

@[simp] theorem barrier_dev (s : State) : (barrier s).dev = s.dev := rfl
@[simp] theorem barrier_life (s : State) : (barrier s).life = s.life := rfl
@[simp] theorem barrier_seq (s : State) : (barrier s).seq = s.seq := rfl
@[simp] theorem barrier_byte (s : State) : (barrier s).byte = s.byte := rfl
@[simp] theorem barrier_mode (s : State) : (barrier s).mode = s.mode := rfl
@[simp] theorem barrier_txt (s : State) : (barrier s).txt = s.txt := rfl
@[simp] theorem barrier_cnt (s : State) : (barrier s).cnt = s.cnt := rfl
@[simp] theorem barrier_idx (s : State) : (barrier s).idx = s.idx := rfl
@[simp] theorem barrier_initIdx (s : State) : (barrier s).initIdx = s.initIdx := rfl
@[simp] theorem barrier_ready (s : State) : (barrier s).ready = s.ready := rfl
@[simp] theorem barrier_busy (s : State) : (barrier s).busy = s.busy := rfl
@[simp] theorem barrier_req (s : State) : (barrier s).req = s.req := rfl
@[simp] theorem barrier_reqLen (s : State) : (barrier s).reqLen = s.reqLen := rfl
@[simp] theorem barrier_resp (s : State) : (barrier s).resp = s.resp := rfl
@[simp] theorem barrier_respLen (s : State) : (barrier s).respLen = s.respLen := rfl
@[simp] theorem barrier_now (s : State) : (barrier s).now = s.now := rfl
@[simp] theorem barrier_trace (s : State) : (barrier s).trace = s.trace ++ [.bar] := rfl
@[simp] theorem barrier_logCnt (s : State) : (barrier s).logCnt = s.logCnt := rfl
@[simp] theorem barrier_latched (s : State) : (barrier s).latched = s.latched := rfl
@[simp] theorem barrier_result (s : State) : (barrier s).result = s.result := rfl
@[simp] theorem barrier_cfg (s : State) : (barrier s).cfg = s.cfg := rfl
@[simp] theorem barrier_port (s : State) : (barrier s).port = s.port := rfl
@[simp] theorem barrier_grain (s : State) : (barrier s).grain = s.grain := rfl
@[simp] theorem barrier_arg (s : State) : (barrier s).arg = s.arg := rfl
@[simp] theorem barrier_extIn (s : State) : (barrier s).extIn = s.extIn := rfl
@[simp] theorem barrier_draws (s : State) : (barrier s).draws = s.draws := rfl

/-! ### `delay` -/

@[simp] theorem delay_dev (d : Nat) (s : State) : (delay d s).dev = s.dev := rfl
@[simp] theorem delay_life (d : Nat) (s : State) : (delay d s).life = s.life := rfl
@[simp] theorem delay_seq (d : Nat) (s : State) : (delay d s).seq = s.seq := rfl
@[simp] theorem delay_byte (d : Nat) (s : State) : (delay d s).byte = s.byte := rfl
@[simp] theorem delay_mode (d : Nat) (s : State) : (delay d s).mode = s.mode := rfl
@[simp] theorem delay_txt (d : Nat) (s : State) : (delay d s).txt = s.txt := rfl
@[simp] theorem delay_cnt (d : Nat) (s : State) : (delay d s).cnt = s.cnt := rfl
@[simp] theorem delay_idx (d : Nat) (s : State) : (delay d s).idx = s.idx := rfl
@[simp] theorem delay_initIdx (d : Nat) (s : State) : (delay d s).initIdx = s.initIdx := rfl
@[simp] theorem delay_ready (d : Nat) (s : State) : (delay d s).ready = s.ready := rfl
@[simp] theorem delay_busy (d : Nat) (s : State) : (delay d s).busy = s.busy := rfl
@[simp] theorem delay_req (d : Nat) (s : State) : (delay d s).req = s.req := rfl
@[simp] theorem delay_reqLen (d : Nat) (s : State) : (delay d s).reqLen = s.reqLen := rfl
@[simp] theorem delay_resp (d : Nat) (s : State) : (delay d s).resp = s.resp := rfl
@[simp] theorem delay_respLen (d : Nat) (s : State) : (delay d s).respLen = s.respLen := rfl
@[simp] theorem delay_now (d : Nat) (s : State) : (delay d s).now = s.now + d + Config.freeOverrun s.draws := rfl
@[simp] theorem delay_trace (d : Nat) (s : State) : (delay d s).trace = s.trace ++ [.dly d] := rfl
@[simp] theorem delay_logCnt (d : Nat) (s : State) : (delay d s).logCnt = s.logCnt := rfl
@[simp] theorem delay_latched (d : Nat) (s : State) : (delay d s).latched = s.latched := rfl
@[simp] theorem delay_result (d : Nat) (s : State) : (delay d s).result = s.result := rfl
@[simp] theorem delay_cfg (d : Nat) (s : State) : (delay d s).cfg = s.cfg := rfl
@[simp] theorem delay_port (d : Nat) (s : State) : (delay d s).port = s.port := rfl
@[simp] theorem delay_grain (d : Nat) (s : State) : (delay d s).grain = s.grain := rfl
@[simp] theorem delay_arg (d : Nat) (s : State) : (delay d s).arg = s.arg := rfl
@[simp] theorem delay_extIn (d : Nat) (s : State) : (delay d s).extIn = s.extIn := rfl
@[simp] theorem delay_draws (d : Nat) (s : State) : (delay d s).draws = s.draws + 1 := rfl

/-! ### `logEntry` -/

@[simp] theorem logEntry_dev (s : State) : (logEntry s).dev = s.dev := rfl
@[simp] theorem logEntry_life (s : State) : (logEntry s).life = s.life := rfl
@[simp] theorem logEntry_seq (s : State) : (logEntry s).seq = s.seq := rfl
@[simp] theorem logEntry_byte (s : State) : (logEntry s).byte = s.byte := rfl
@[simp] theorem logEntry_mode (s : State) : (logEntry s).mode = s.mode := rfl
@[simp] theorem logEntry_txt (s : State) : (logEntry s).txt = s.txt := rfl
@[simp] theorem logEntry_cnt (s : State) : (logEntry s).cnt = s.cnt := rfl
@[simp] theorem logEntry_idx (s : State) : (logEntry s).idx = s.idx := rfl
@[simp] theorem logEntry_initIdx (s : State) : (logEntry s).initIdx = s.initIdx := rfl
@[simp] theorem logEntry_ready (s : State) : (logEntry s).ready = s.ready := rfl
@[simp] theorem logEntry_busy (s : State) : (logEntry s).busy = s.busy := rfl
@[simp] theorem logEntry_req (s : State) : (logEntry s).req = s.req := rfl
@[simp] theorem logEntry_reqLen (s : State) : (logEntry s).reqLen = s.reqLen := rfl
@[simp] theorem logEntry_resp (s : State) : (logEntry s).resp = s.resp := rfl
@[simp] theorem logEntry_respLen (s : State) : (logEntry s).respLen = s.respLen := rfl
@[simp] theorem logEntry_now (s : State) : (logEntry s).now = s.now := rfl
@[simp] theorem logEntry_trace (s : State) : (logEntry s).trace = s.trace ++ [.log] := rfl
@[simp] theorem logEntry_logCnt (s : State) : (logEntry s).logCnt = s.logCnt + 1 := rfl
@[simp] theorem logEntry_latched (s : State) : (logEntry s).latched = s.latched := rfl
@[simp] theorem logEntry_result (s : State) : (logEntry s).result = s.result := rfl
@[simp] theorem logEntry_cfg (s : State) : (logEntry s).cfg = s.cfg := rfl
@[simp] theorem logEntry_port (s : State) : (logEntry s).port = s.port := rfl
@[simp] theorem logEntry_grain (s : State) : (logEntry s).grain = s.grain := rfl
@[simp] theorem logEntry_arg (s : State) : (logEntry s).arg = s.arg := rfl
@[simp] theorem logEntry_extIn (s : State) : (logEntry s).extIn = s.extIn := rfl
@[simp] theorem logEntry_draws (s : State) : (logEntry s).draws = s.draws := rfl

/-! ### `readFsel` -/

@[simp] theorem readFsel_dev (k : Fin 6) (s : State) : (readFsel k s).dev = s.dev := rfl
@[simp] theorem readFsel_life (k : Fin 6) (s : State) : (readFsel k s).life = s.life := rfl
@[simp] theorem readFsel_seq (k : Fin 6) (s : State) : (readFsel k s).seq = s.seq := rfl
@[simp] theorem readFsel_byte (k : Fin 6) (s : State) : (readFsel k s).byte = s.byte := rfl
@[simp] theorem readFsel_mode (k : Fin 6) (s : State) : (readFsel k s).mode = s.mode := rfl
@[simp] theorem readFsel_txt (k : Fin 6) (s : State) : (readFsel k s).txt = s.txt := rfl
@[simp] theorem readFsel_cnt (k : Fin 6) (s : State) : (readFsel k s).cnt = s.cnt := rfl
@[simp] theorem readFsel_idx (k : Fin 6) (s : State) : (readFsel k s).idx = s.idx := rfl
@[simp] theorem readFsel_initIdx (k : Fin 6) (s : State) : (readFsel k s).initIdx = s.initIdx := rfl
@[simp] theorem readFsel_ready (k : Fin 6) (s : State) : (readFsel k s).ready = s.ready := rfl
@[simp] theorem readFsel_busy (k : Fin 6) (s : State) : (readFsel k s).busy = s.busy := rfl
@[simp] theorem readFsel_req (k : Fin 6) (s : State) : (readFsel k s).req = s.req := rfl
@[simp] theorem readFsel_reqLen (k : Fin 6) (s : State) : (readFsel k s).reqLen = s.reqLen := rfl
@[simp] theorem readFsel_resp (k : Fin 6) (s : State) : (readFsel k s).resp = s.resp := rfl
@[simp] theorem readFsel_respLen (k : Fin 6) (s : State) : (readFsel k s).respLen = s.respLen := rfl
@[simp] theorem readFsel_now (k : Fin 6) (s : State) : (readFsel k s).now = s.now := rfl
@[simp] theorem readFsel_trace (k : Fin 6) (s : State) : (readFsel k s).trace = s.trace ++ [.rd (offsetOf s.cfg (.fsel k)) s.dev.fsel[k]] := rfl
@[simp] theorem readFsel_logCnt (k : Fin 6) (s : State) : (readFsel k s).logCnt = s.logCnt := rfl
@[simp] theorem readFsel_latched (k : Fin 6) (s : State) : (readFsel k s).latched = s.latched := rfl
@[simp] theorem readFsel_result (k : Fin 6) (s : State) : (readFsel k s).result = s.result := rfl
@[simp] theorem readFsel_cfg (k : Fin 6) (s : State) : (readFsel k s).cfg = s.cfg := rfl
@[simp] theorem readFsel_port (k : Fin 6) (s : State) : (readFsel k s).port = s.port := rfl
@[simp] theorem readFsel_grain (k : Fin 6) (s : State) : (readFsel k s).grain = s.grain := rfl
@[simp] theorem readFsel_arg (k : Fin 6) (s : State) : (readFsel k s).arg = s.arg := rfl
@[simp] theorem readFsel_extIn (k : Fin 6) (s : State) : (readFsel k s).extIn = s.extIn := rfl
@[simp] theorem readFsel_draws (k : Fin 6) (s : State) : (readFsel k s).draws = s.draws := rfl

/-! ### `readLev` -/

@[simp] theorem readLev_dev (j : Fin 2) (s : State) : (readLev j s).dev = s.dev := rfl
@[simp] theorem readLev_life (j : Fin 2) (s : State) : (readLev j s).life = s.life := rfl
@[simp] theorem readLev_seq (j : Fin 2) (s : State) : (readLev j s).seq = s.seq := rfl
@[simp] theorem readLev_byte (j : Fin 2) (s : State) : (readLev j s).byte = s.byte := rfl
@[simp] theorem readLev_mode (j : Fin 2) (s : State) : (readLev j s).mode = s.mode := rfl
@[simp] theorem readLev_txt (j : Fin 2) (s : State) : (readLev j s).txt = s.txt := rfl
@[simp] theorem readLev_cnt (j : Fin 2) (s : State) : (readLev j s).cnt = s.cnt := rfl
@[simp] theorem readLev_idx (j : Fin 2) (s : State) : (readLev j s).idx = s.idx := rfl
@[simp] theorem readLev_initIdx (j : Fin 2) (s : State) : (readLev j s).initIdx = s.initIdx := rfl
@[simp] theorem readLev_ready (j : Fin 2) (s : State) : (readLev j s).ready = s.ready := rfl
@[simp] theorem readLev_busy (j : Fin 2) (s : State) : (readLev j s).busy = s.busy := rfl
@[simp] theorem readLev_req (j : Fin 2) (s : State) : (readLev j s).req = s.req := rfl
@[simp] theorem readLev_reqLen (j : Fin 2) (s : State) : (readLev j s).reqLen = s.reqLen := rfl
@[simp] theorem readLev_resp (j : Fin 2) (s : State) : (readLev j s).resp = s.resp := rfl
@[simp] theorem readLev_respLen (j : Fin 2) (s : State) : (readLev j s).respLen = s.respLen := rfl
@[simp] theorem readLev_now (j : Fin 2) (s : State) : (readLev j s).now = s.now := rfl
@[simp] theorem readLev_trace (j : Fin 2) (s : State) : (readLev j s).trace = s.trace ++ [.rd (offsetOf s.cfg (.lev j)) (levelNow s j)] := rfl
@[simp] theorem readLev_logCnt (j : Fin 2) (s : State) : (readLev j s).logCnt = s.logCnt := rfl
@[simp] theorem readLev_latched (j : Fin 2) (s : State) : (readLev j s).latched = s.latched := rfl
@[simp] theorem readLev_result (j : Fin 2) (s : State) : (readLev j s).result = s.result := rfl
@[simp] theorem readLev_cfg (j : Fin 2) (s : State) : (readLev j s).cfg = s.cfg := rfl
@[simp] theorem readLev_port (j : Fin 2) (s : State) : (readLev j s).port = s.port := rfl
@[simp] theorem readLev_grain (j : Fin 2) (s : State) : (readLev j s).grain = s.grain := rfl
@[simp] theorem readLev_arg (j : Fin 2) (s : State) : (readLev j s).arg = s.arg := rfl
@[simp] theorem readLev_extIn (j : Fin 2) (s : State) : (readLev j s).extIn = s.extIn.tail := rfl
@[simp] theorem readLev_draws (j : Fin 2) (s : State) : (readLev j s).draws = s.draws + 1 := rfl

/-! ### `regWrite` -/

@[simp] theorem regWrite_dev (r : Reg) (v : Reg32) (s : State) : (regWrite r v s).dev = deviceWrite r v s.dev := rfl
@[simp] theorem regWrite_life (r : Reg) (v : Reg32) (s : State) : (regWrite r v s).life = s.life := rfl
@[simp] theorem regWrite_seq (r : Reg) (v : Reg32) (s : State) : (regWrite r v s).seq = s.seq := rfl
@[simp] theorem regWrite_byte (r : Reg) (v : Reg32) (s : State) : (regWrite r v s).byte = s.byte := rfl
@[simp] theorem regWrite_mode (r : Reg) (v : Reg32) (s : State) : (regWrite r v s).mode = s.mode := rfl
@[simp] theorem regWrite_txt (r : Reg) (v : Reg32) (s : State) : (regWrite r v s).txt = s.txt := rfl
@[simp] theorem regWrite_cnt (r : Reg) (v : Reg32) (s : State) : (regWrite r v s).cnt = s.cnt := rfl
@[simp] theorem regWrite_idx (r : Reg) (v : Reg32) (s : State) : (regWrite r v s).idx = s.idx := rfl
@[simp] theorem regWrite_initIdx (r : Reg) (v : Reg32) (s : State) : (regWrite r v s).initIdx = s.initIdx := rfl
@[simp] theorem regWrite_ready (r : Reg) (v : Reg32) (s : State) : (regWrite r v s).ready = s.ready := rfl
@[simp] theorem regWrite_busy (r : Reg) (v : Reg32) (s : State) : (regWrite r v s).busy = s.busy := rfl
@[simp] theorem regWrite_req (r : Reg) (v : Reg32) (s : State) : (regWrite r v s).req = s.req := rfl
@[simp] theorem regWrite_reqLen (r : Reg) (v : Reg32) (s : State) : (regWrite r v s).reqLen = s.reqLen := rfl
@[simp] theorem regWrite_resp (r : Reg) (v : Reg32) (s : State) : (regWrite r v s).resp = s.resp := rfl
@[simp] theorem regWrite_respLen (r : Reg) (v : Reg32) (s : State) : (regWrite r v s).respLen = s.respLen := rfl
@[simp] theorem regWrite_now (r : Reg) (v : Reg32) (s : State) : (regWrite r v s).now = s.now := rfl
@[simp] theorem regWrite_trace (r : Reg) (v : Reg32) (s : State) : (regWrite r v s).trace = s.trace ++ [.wr (offsetOf s.cfg r) v] := rfl
@[simp] theorem regWrite_logCnt (r : Reg) (v : Reg32) (s : State) : (regWrite r v s).logCnt = s.logCnt := rfl
@[simp] theorem regWrite_latched (r : Reg) (v : Reg32) (s : State) : (regWrite r v s).latched = s.latched ++ latchesOfWrite s.cfg (Config.freeLevel s.draws) s.dev (deviceWrite r v s.dev) := rfl
@[simp] theorem regWrite_result (r : Reg) (v : Reg32) (s : State) : (regWrite r v s).result = s.result := rfl
@[simp] theorem regWrite_cfg (r : Reg) (v : Reg32) (s : State) : (regWrite r v s).cfg = s.cfg := rfl
@[simp] theorem regWrite_port (r : Reg) (v : Reg32) (s : State) : (regWrite r v s).port = s.port := rfl
@[simp] theorem regWrite_grain (r : Reg) (v : Reg32) (s : State) : (regWrite r v s).grain = s.grain := rfl
@[simp] theorem regWrite_arg (r : Reg) (v : Reg32) (s : State) : (regWrite r v s).arg = s.arg := rfl
@[simp] theorem regWrite_extIn (r : Reg) (v : Reg32) (s : State) : (regWrite r v s).extIn = s.extIn := rfl
@[simp] theorem regWrite_draws (r : Reg) (v : Reg32) (s : State) : (regWrite r v s).draws = s.draws + 1 := rfl

/-! ### `setPin` -/

@[simp] theorem setPin_dev (p : Pin) (lvl : Bool) (s : State) : (setPin p lvl s).dev = deviceWrite (if lvl then .set (bankOf p) else .clr (bankOf p)) (pinWord p) s.dev := rfl
@[simp] theorem setPin_life (p : Pin) (lvl : Bool) (s : State) : (setPin p lvl s).life = s.life := rfl
@[simp] theorem setPin_seq (p : Pin) (lvl : Bool) (s : State) : (setPin p lvl s).seq = s.seq := rfl
@[simp] theorem setPin_byte (p : Pin) (lvl : Bool) (s : State) : (setPin p lvl s).byte = s.byte := rfl
@[simp] theorem setPin_mode (p : Pin) (lvl : Bool) (s : State) : (setPin p lvl s).mode = s.mode := rfl
@[simp] theorem setPin_txt (p : Pin) (lvl : Bool) (s : State) : (setPin p lvl s).txt = s.txt := rfl
@[simp] theorem setPin_cnt (p : Pin) (lvl : Bool) (s : State) : (setPin p lvl s).cnt = s.cnt := rfl
@[simp] theorem setPin_idx (p : Pin) (lvl : Bool) (s : State) : (setPin p lvl s).idx = s.idx := rfl
@[simp] theorem setPin_initIdx (p : Pin) (lvl : Bool) (s : State) : (setPin p lvl s).initIdx = s.initIdx := rfl
@[simp] theorem setPin_ready (p : Pin) (lvl : Bool) (s : State) : (setPin p lvl s).ready = s.ready := rfl
@[simp] theorem setPin_busy (p : Pin) (lvl : Bool) (s : State) : (setPin p lvl s).busy = s.busy := rfl
@[simp] theorem setPin_req (p : Pin) (lvl : Bool) (s : State) : (setPin p lvl s).req = s.req := rfl
@[simp] theorem setPin_reqLen (p : Pin) (lvl : Bool) (s : State) : (setPin p lvl s).reqLen = s.reqLen := rfl
@[simp] theorem setPin_resp (p : Pin) (lvl : Bool) (s : State) : (setPin p lvl s).resp = s.resp := rfl
@[simp] theorem setPin_respLen (p : Pin) (lvl : Bool) (s : State) : (setPin p lvl s).respLen = s.respLen := rfl
@[simp] theorem setPin_now (p : Pin) (lvl : Bool) (s : State) : (setPin p lvl s).now = s.now := rfl
@[simp] theorem setPin_logCnt (p : Pin) (lvl : Bool) (s : State) : (setPin p lvl s).logCnt = s.logCnt := rfl
@[simp] theorem setPin_latched (p : Pin) (lvl : Bool) (s : State) : (setPin p lvl s).latched = s.latched ++ latchesOfWrite s.cfg (Config.freeLevel s.draws) s.dev (deviceWrite (if lvl then .set (bankOf p) else .clr (bankOf p)) (pinWord p) s.dev) := rfl
@[simp] theorem setPin_result (p : Pin) (lvl : Bool) (s : State) : (setPin p lvl s).result = s.result := rfl
@[simp] theorem setPin_cfg (p : Pin) (lvl : Bool) (s : State) : (setPin p lvl s).cfg = s.cfg := rfl
@[simp] theorem setPin_port (p : Pin) (lvl : Bool) (s : State) : (setPin p lvl s).port = s.port := rfl
@[simp] theorem setPin_grain (p : Pin) (lvl : Bool) (s : State) : (setPin p lvl s).grain = s.grain := rfl
@[simp] theorem setPin_arg (p : Pin) (lvl : Bool) (s : State) : (setPin p lvl s).arg = s.arg := rfl
@[simp] theorem setPin_extIn (p : Pin) (lvl : Bool) (s : State) : (setPin p lvl s).extIn = s.extIn := rfl
@[simp] theorem setPin_draws (p : Pin) (lvl : Bool) (s : State) : (setPin p lvl s).draws = s.draws + 1 := rfl

/-! ### `driveE` -/

@[simp] theorem driveE_life (lvl : Bool) (s : State) : (driveE lvl s).life = s.life := rfl
@[simp] theorem driveE_seq (lvl : Bool) (s : State) : (driveE lvl s).seq = s.seq := rfl
@[simp] theorem driveE_byte (lvl : Bool) (s : State) : (driveE lvl s).byte = s.byte := rfl
@[simp] theorem driveE_mode (lvl : Bool) (s : State) : (driveE lvl s).mode = s.mode := rfl
@[simp] theorem driveE_txt (lvl : Bool) (s : State) : (driveE lvl s).txt = s.txt := rfl
@[simp] theorem driveE_cnt (lvl : Bool) (s : State) : (driveE lvl s).cnt = s.cnt := rfl
@[simp] theorem driveE_idx (lvl : Bool) (s : State) : (driveE lvl s).idx = s.idx := rfl
@[simp] theorem driveE_initIdx (lvl : Bool) (s : State) : (driveE lvl s).initIdx = s.initIdx := rfl
@[simp] theorem driveE_ready (lvl : Bool) (s : State) : (driveE lvl s).ready = s.ready := rfl
@[simp] theorem driveE_busy (lvl : Bool) (s : State) : (driveE lvl s).busy = s.busy := rfl
@[simp] theorem driveE_req (lvl : Bool) (s : State) : (driveE lvl s).req = s.req := rfl
@[simp] theorem driveE_reqLen (lvl : Bool) (s : State) : (driveE lvl s).reqLen = s.reqLen := rfl
@[simp] theorem driveE_resp (lvl : Bool) (s : State) : (driveE lvl s).resp = s.resp := rfl
@[simp] theorem driveE_respLen (lvl : Bool) (s : State) : (driveE lvl s).respLen = s.respLen := rfl
@[simp] theorem driveE_now (lvl : Bool) (s : State) : (driveE lvl s).now = s.now := rfl
@[simp] theorem driveE_logCnt (lvl : Bool) (s : State) : (driveE lvl s).logCnt = s.logCnt := rfl
@[simp] theorem driveE_result (lvl : Bool) (s : State) : (driveE lvl s).result = s.result := rfl
@[simp] theorem driveE_cfg (lvl : Bool) (s : State) : (driveE lvl s).cfg = s.cfg := rfl
@[simp] theorem driveE_port (lvl : Bool) (s : State) : (driveE lvl s).port = s.port := rfl
@[simp] theorem driveE_grain (lvl : Bool) (s : State) : (driveE lvl s).grain = s.grain := rfl
@[simp] theorem driveE_arg (lvl : Bool) (s : State) : (driveE lvl s).arg = s.arg := rfl
@[simp] theorem driveE_extIn (lvl : Bool) (s : State) : (driveE lvl s).extIn = s.extIn := rfl

/-! ### `setModeLine` -/

@[simp] theorem setModeLine_life (s : State) : (setModeLine s).life = s.life := rfl
@[simp] theorem setModeLine_seq (s : State) : (setModeLine s).seq = s.seq := rfl
@[simp] theorem setModeLine_byte (s : State) : (setModeLine s).byte = s.byte := rfl
@[simp] theorem setModeLine_mode (s : State) : (setModeLine s).mode = s.mode := rfl
@[simp] theorem setModeLine_txt (s : State) : (setModeLine s).txt = s.txt := rfl
@[simp] theorem setModeLine_cnt (s : State) : (setModeLine s).cnt = s.cnt := rfl
@[simp] theorem setModeLine_idx (s : State) : (setModeLine s).idx = s.idx := rfl
@[simp] theorem setModeLine_initIdx (s : State) : (setModeLine s).initIdx = s.initIdx := rfl
@[simp] theorem setModeLine_ready (s : State) : (setModeLine s).ready = s.ready := rfl
@[simp] theorem setModeLine_busy (s : State) : (setModeLine s).busy = s.busy := rfl
@[simp] theorem setModeLine_req (s : State) : (setModeLine s).req = s.req := rfl
@[simp] theorem setModeLine_reqLen (s : State) : (setModeLine s).reqLen = s.reqLen := rfl
@[simp] theorem setModeLine_resp (s : State) : (setModeLine s).resp = s.resp := rfl
@[simp] theorem setModeLine_respLen (s : State) : (setModeLine s).respLen = s.respLen := rfl
@[simp] theorem setModeLine_now (s : State) : (setModeLine s).now = s.now := rfl
@[simp] theorem setModeLine_logCnt (s : State) : (setModeLine s).logCnt = s.logCnt := rfl
@[simp] theorem setModeLine_result (s : State) : (setModeLine s).result = s.result := rfl
@[simp] theorem setModeLine_cfg (s : State) : (setModeLine s).cfg = s.cfg := rfl
@[simp] theorem setModeLine_port (s : State) : (setModeLine s).port = s.port := rfl
@[simp] theorem setModeLine_grain (s : State) : (setModeLine s).grain = s.grain := rfl
@[simp] theorem setModeLine_arg (s : State) : (setModeLine s).arg = s.arg := rfl
@[simp] theorem setModeLine_extIn (s : State) : (setModeLine s).extIn = s.extIn := rfl

/-! ### `clearLine` -/

@[simp] theorem clearLine_life (s : State) (i : Nat) : (clearLine s i).life = s.life := rfl
@[simp] theorem clearLine_seq (s : State) (i : Nat) : (clearLine s i).seq = s.seq := rfl
@[simp] theorem clearLine_byte (s : State) (i : Nat) : (clearLine s i).byte = s.byte := rfl
@[simp] theorem clearLine_mode (s : State) (i : Nat) : (clearLine s i).mode = s.mode := rfl
@[simp] theorem clearLine_txt (s : State) (i : Nat) : (clearLine s i).txt = s.txt := rfl
@[simp] theorem clearLine_cnt (s : State) (i : Nat) : (clearLine s i).cnt = s.cnt := rfl
@[simp] theorem clearLine_idx (s : State) (i : Nat) : (clearLine s i).idx = s.idx := rfl
@[simp] theorem clearLine_initIdx (s : State) (i : Nat) : (clearLine s i).initIdx = s.initIdx := rfl
@[simp] theorem clearLine_ready (s : State) (i : Nat) : (clearLine s i).ready = s.ready := rfl
@[simp] theorem clearLine_busy (s : State) (i : Nat) : (clearLine s i).busy = s.busy := rfl
@[simp] theorem clearLine_req (s : State) (i : Nat) : (clearLine s i).req = s.req := rfl
@[simp] theorem clearLine_reqLen (s : State) (i : Nat) : (clearLine s i).reqLen = s.reqLen := rfl
@[simp] theorem clearLine_resp (s : State) (i : Nat) : (clearLine s i).resp = s.resp := rfl
@[simp] theorem clearLine_respLen (s : State) (i : Nat) : (clearLine s i).respLen = s.respLen := rfl
@[simp] theorem clearLine_now (s : State) (i : Nat) : (clearLine s i).now = s.now := rfl
@[simp] theorem clearLine_logCnt (s : State) (i : Nat) : (clearLine s i).logCnt = s.logCnt := rfl
@[simp] theorem clearLine_result (s : State) (i : Nat) : (clearLine s i).result = s.result := rfl
@[simp] theorem clearLine_cfg (s : State) (i : Nat) : (clearLine s i).cfg = s.cfg := rfl
@[simp] theorem clearLine_port (s : State) (i : Nat) : (clearLine s i).port = s.port := rfl
@[simp] theorem clearLine_grain (s : State) (i : Nat) : (clearLine s i).grain = s.grain := rfl
@[simp] theorem clearLine_arg (s : State) (i : Nat) : (clearLine s i).arg = s.arg := rfl
@[simp] theorem clearLine_extIn (s : State) (i : Nat) : (clearLine s i).extIn = s.extIn := rfl

/-! ### `loadByte` -/

@[simp] theorem loadByte_dev (b : Byte) (m : Mode) (s : State) : (loadByte b m s).dev = s.dev := rfl
@[simp] theorem loadByte_life (b : Byte) (m : Mode) (s : State) : (loadByte b m s).life = s.life := rfl
@[simp] theorem loadByte_seq (b : Byte) (m : Mode) (s : State) : (loadByte b m s).seq = s.seq := rfl
@[simp] theorem loadByte_byte (b : Byte) (m : Mode) (s : State) : (loadByte b m s).byte = b := rfl
@[simp] theorem loadByte_mode (b : Byte) (m : Mode) (s : State) : (loadByte b m s).mode = m := rfl
@[simp] theorem loadByte_txt (b : Byte) (m : Mode) (s : State) : (loadByte b m s).txt = s.txt := rfl
@[simp] theorem loadByte_cnt (b : Byte) (m : Mode) (s : State) : (loadByte b m s).cnt = s.cnt := rfl
@[simp] theorem loadByte_idx (b : Byte) (m : Mode) (s : State) : (loadByte b m s).idx = s.idx := rfl
@[simp] theorem loadByte_initIdx (b : Byte) (m : Mode) (s : State) : (loadByte b m s).initIdx = s.initIdx := rfl
@[simp] theorem loadByte_ready (b : Byte) (m : Mode) (s : State) : (loadByte b m s).ready = s.ready := rfl
@[simp] theorem loadByte_busy (b : Byte) (m : Mode) (s : State) : (loadByte b m s).busy = s.busy := rfl
@[simp] theorem loadByte_req (b : Byte) (m : Mode) (s : State) : (loadByte b m s).req = s.req := rfl
@[simp] theorem loadByte_reqLen (b : Byte) (m : Mode) (s : State) : (loadByte b m s).reqLen = s.reqLen := rfl
@[simp] theorem loadByte_resp (b : Byte) (m : Mode) (s : State) : (loadByte b m s).resp = s.resp := rfl
@[simp] theorem loadByte_respLen (b : Byte) (m : Mode) (s : State) : (loadByte b m s).respLen = s.respLen := rfl
@[simp] theorem loadByte_now (b : Byte) (m : Mode) (s : State) : (loadByte b m s).now = s.now := rfl
@[simp] theorem loadByte_trace (b : Byte) (m : Mode) (s : State) : (loadByte b m s).trace = s.trace := rfl
@[simp] theorem loadByte_logCnt (b : Byte) (m : Mode) (s : State) : (loadByte b m s).logCnt = s.logCnt := rfl
@[simp] theorem loadByte_latched (b : Byte) (m : Mode) (s : State) : (loadByte b m s).latched = s.latched := rfl
@[simp] theorem loadByte_result (b : Byte) (m : Mode) (s : State) : (loadByte b m s).result = s.result := rfl
@[simp] theorem loadByte_cfg (b : Byte) (m : Mode) (s : State) : (loadByte b m s).cfg = s.cfg := rfl
@[simp] theorem loadByte_port (b : Byte) (m : Mode) (s : State) : (loadByte b m s).port = s.port := rfl
@[simp] theorem loadByte_grain (b : Byte) (m : Mode) (s : State) : (loadByte b m s).grain = s.grain := rfl
@[simp] theorem loadByte_arg (b : Byte) (m : Mode) (s : State) : (loadByte b m s).arg = s.arg := rfl
@[simp] theorem loadByte_extIn (b : Byte) (m : Mode) (s : State) : (loadByte b m s).extIn = s.extIn := rfl
@[simp] theorem loadByte_draws (b : Byte) (m : Mode) (s : State) : (loadByte b m s).draws = s.draws := rfl

/-! ### `moveTo` -/

@[simp] theorem moveTo_dev (st : ByteState) (u : Nat) (s : State) : (moveTo st u s).dev = s.dev := rfl
@[simp] theorem moveTo_life (st : ByteState) (u : Nat) (s : State) : (moveTo st u s).life = s.life := rfl
@[simp] theorem moveTo_seq (st : ByteState) (u : Nat) (s : State) : (moveTo st u s).seq = { s.seq with st := st, u := u } := rfl
@[simp] theorem moveTo_byte (st : ByteState) (u : Nat) (s : State) : (moveTo st u s).byte = s.byte := rfl
@[simp] theorem moveTo_mode (st : ByteState) (u : Nat) (s : State) : (moveTo st u s).mode = s.mode := rfl
@[simp] theorem moveTo_txt (st : ByteState) (u : Nat) (s : State) : (moveTo st u s).txt = s.txt := rfl
@[simp] theorem moveTo_cnt (st : ByteState) (u : Nat) (s : State) : (moveTo st u s).cnt = s.cnt := rfl
@[simp] theorem moveTo_idx (st : ByteState) (u : Nat) (s : State) : (moveTo st u s).idx = s.idx := rfl
@[simp] theorem moveTo_initIdx (st : ByteState) (u : Nat) (s : State) : (moveTo st u s).initIdx = s.initIdx := rfl
@[simp] theorem moveTo_ready (st : ByteState) (u : Nat) (s : State) : (moveTo st u s).ready = s.ready := rfl
@[simp] theorem moveTo_busy (st : ByteState) (u : Nat) (s : State) : (moveTo st u s).busy = s.busy := rfl
@[simp] theorem moveTo_req (st : ByteState) (u : Nat) (s : State) : (moveTo st u s).req = s.req := rfl
@[simp] theorem moveTo_reqLen (st : ByteState) (u : Nat) (s : State) : (moveTo st u s).reqLen = s.reqLen := rfl
@[simp] theorem moveTo_resp (st : ByteState) (u : Nat) (s : State) : (moveTo st u s).resp = s.resp := rfl
@[simp] theorem moveTo_respLen (st : ByteState) (u : Nat) (s : State) : (moveTo st u s).respLen = s.respLen := rfl
@[simp] theorem moveTo_now (st : ByteState) (u : Nat) (s : State) : (moveTo st u s).now = s.now := rfl
@[simp] theorem moveTo_trace (st : ByteState) (u : Nat) (s : State) : (moveTo st u s).trace = s.trace := rfl
@[simp] theorem moveTo_logCnt (st : ByteState) (u : Nat) (s : State) : (moveTo st u s).logCnt = s.logCnt := rfl
@[simp] theorem moveTo_latched (st : ByteState) (u : Nat) (s : State) : (moveTo st u s).latched = s.latched := rfl
@[simp] theorem moveTo_result (st : ByteState) (u : Nat) (s : State) : (moveTo st u s).result = s.result := rfl
@[simp] theorem moveTo_cfg (st : ByteState) (u : Nat) (s : State) : (moveTo st u s).cfg = s.cfg := rfl
@[simp] theorem moveTo_port (st : ByteState) (u : Nat) (s : State) : (moveTo st u s).port = s.port := rfl
@[simp] theorem moveTo_grain (st : ByteState) (u : Nat) (s : State) : (moveTo st u s).grain = s.grain := rfl
@[simp] theorem moveTo_arg (st : ByteState) (u : Nat) (s : State) : (moveTo st u s).arg = s.arg := rfl
@[simp] theorem moveTo_extIn (st : ByteState) (u : Nat) (s : State) : (moveTo st u s).extIn = s.extIn := rfl
@[simp] theorem moveTo_draws (st : ByteState) (u : Nat) (s : State) : (moveTo st u s).draws = s.draws := rfl

/-! ### `enterPhase` -/

@[simp] theorem enterPhase_dev (ph : Phase) (s : State) : (enterPhase ph s).dev = s.dev := rfl
@[simp] theorem enterPhase_life (ph : Phase) (s : State) : (enterPhase ph s).life = s.life := rfl
@[simp] theorem enterPhase_seq (ph : Phase) (s : State) : (enterPhase ph s).seq = { s.seq with phase := ph } := rfl
@[simp] theorem enterPhase_byte (ph : Phase) (s : State) : (enterPhase ph s).byte = s.byte := rfl
@[simp] theorem enterPhase_mode (ph : Phase) (s : State) : (enterPhase ph s).mode = s.mode := rfl
@[simp] theorem enterPhase_txt (ph : Phase) (s : State) : (enterPhase ph s).txt = s.txt := rfl
@[simp] theorem enterPhase_cnt (ph : Phase) (s : State) : (enterPhase ph s).cnt = s.cnt := rfl
@[simp] theorem enterPhase_idx (ph : Phase) (s : State) : (enterPhase ph s).idx = s.idx := rfl
@[simp] theorem enterPhase_initIdx (ph : Phase) (s : State) : (enterPhase ph s).initIdx = s.initIdx := rfl
@[simp] theorem enterPhase_ready (ph : Phase) (s : State) : (enterPhase ph s).ready = s.ready := rfl
@[simp] theorem enterPhase_busy (ph : Phase) (s : State) : (enterPhase ph s).busy = s.busy := rfl
@[simp] theorem enterPhase_req (ph : Phase) (s : State) : (enterPhase ph s).req = s.req := rfl
@[simp] theorem enterPhase_reqLen (ph : Phase) (s : State) : (enterPhase ph s).reqLen = s.reqLen := rfl
@[simp] theorem enterPhase_resp (ph : Phase) (s : State) : (enterPhase ph s).resp = s.resp := rfl
@[simp] theorem enterPhase_respLen (ph : Phase) (s : State) : (enterPhase ph s).respLen = s.respLen := rfl
@[simp] theorem enterPhase_now (ph : Phase) (s : State) : (enterPhase ph s).now = s.now := rfl
@[simp] theorem enterPhase_trace (ph : Phase) (s : State) : (enterPhase ph s).trace = s.trace := rfl
@[simp] theorem enterPhase_logCnt (ph : Phase) (s : State) : (enterPhase ph s).logCnt = s.logCnt := rfl
@[simp] theorem enterPhase_latched (ph : Phase) (s : State) : (enterPhase ph s).latched = s.latched := rfl
@[simp] theorem enterPhase_result (ph : Phase) (s : State) : (enterPhase ph s).result = s.result := rfl
@[simp] theorem enterPhase_cfg (ph : Phase) (s : State) : (enterPhase ph s).cfg = s.cfg := rfl
@[simp] theorem enterPhase_port (ph : Phase) (s : State) : (enterPhase ph s).port = s.port := rfl
@[simp] theorem enterPhase_grain (ph : Phase) (s : State) : (enterPhase ph s).grain = s.grain := rfl
@[simp] theorem enterPhase_arg (ph : Phase) (s : State) : (enterPhase ph s).arg = s.arg := rfl
@[simp] theorem enterPhase_extIn (ph : Phase) (s : State) : (enterPhase ph s).extIn = s.extIn := rfl
@[simp] theorem enterPhase_draws (ph : Phase) (s : State) : (enterPhase ph s).draws = s.draws := rfl

/-! ### `setReady` -/

@[simp] theorem setReady_dev (b : Bool) (s : State) : (setReady b s).dev = s.dev := rfl
@[simp] theorem setReady_life (b : Bool) (s : State) : (setReady b s).life = s.life := rfl
@[simp] theorem setReady_seq (b : Bool) (s : State) : (setReady b s).seq = s.seq := rfl
@[simp] theorem setReady_byte (b : Bool) (s : State) : (setReady b s).byte = s.byte := rfl
@[simp] theorem setReady_mode (b : Bool) (s : State) : (setReady b s).mode = s.mode := rfl
@[simp] theorem setReady_txt (b : Bool) (s : State) : (setReady b s).txt = s.txt := rfl
@[simp] theorem setReady_cnt (b : Bool) (s : State) : (setReady b s).cnt = s.cnt := rfl
@[simp] theorem setReady_idx (b : Bool) (s : State) : (setReady b s).idx = s.idx := rfl
@[simp] theorem setReady_initIdx (b : Bool) (s : State) : (setReady b s).initIdx = s.initIdx := rfl
@[simp] theorem setReady_ready (b : Bool) (s : State) : (setReady b s).ready = b := rfl
@[simp] theorem setReady_busy (b : Bool) (s : State) : (setReady b s).busy = s.busy := rfl
@[simp] theorem setReady_req (b : Bool) (s : State) : (setReady b s).req = s.req := rfl
@[simp] theorem setReady_reqLen (b : Bool) (s : State) : (setReady b s).reqLen = s.reqLen := rfl
@[simp] theorem setReady_resp (b : Bool) (s : State) : (setReady b s).resp = s.resp := rfl
@[simp] theorem setReady_respLen (b : Bool) (s : State) : (setReady b s).respLen = s.respLen := rfl
@[simp] theorem setReady_now (b : Bool) (s : State) : (setReady b s).now = s.now := rfl
@[simp] theorem setReady_trace (b : Bool) (s : State) : (setReady b s).trace = s.trace := rfl
@[simp] theorem setReady_logCnt (b : Bool) (s : State) : (setReady b s).logCnt = s.logCnt := rfl
@[simp] theorem setReady_latched (b : Bool) (s : State) : (setReady b s).latched = s.latched := rfl
@[simp] theorem setReady_result (b : Bool) (s : State) : (setReady b s).result = s.result := rfl
@[simp] theorem setReady_cfg (b : Bool) (s : State) : (setReady b s).cfg = s.cfg := rfl
@[simp] theorem setReady_port (b : Bool) (s : State) : (setReady b s).port = s.port := rfl
@[simp] theorem setReady_grain (b : Bool) (s : State) : (setReady b s).grain = s.grain := rfl
@[simp] theorem setReady_arg (b : Bool) (s : State) : (setReady b s).arg = s.arg := rfl
@[simp] theorem setReady_extIn (b : Bool) (s : State) : (setReady b s).extIn = s.extIn := rfl
@[simp] theorem setReady_draws (b : Bool) (s : State) : (setReady b s).draws = s.draws := rfl

/-! ### `beginOp` -/

@[simp] theorem beginOp_dev (op : OpName) (s : State) : (beginOp op s).dev = s.dev := rfl
@[simp] theorem beginOp_life (op : OpName) (s : State) : (beginOp op s).life = s.life := rfl
@[simp] theorem beginOp_seq (op : OpName) (s : State) : (beginOp op s).seq = { Seq.idle with op := op } := rfl
@[simp] theorem beginOp_byte (op : OpName) (s : State) : (beginOp op s).byte = s.byte := rfl
@[simp] theorem beginOp_mode (op : OpName) (s : State) : (beginOp op s).mode = s.mode := rfl
@[simp] theorem beginOp_txt (op : OpName) (s : State) : (beginOp op s).txt = s.txt := rfl
@[simp] theorem beginOp_cnt (op : OpName) (s : State) : (beginOp op s).cnt = s.cnt := rfl
@[simp] theorem beginOp_idx (op : OpName) (s : State) : (beginOp op s).idx = s.idx := rfl
@[simp] theorem beginOp_initIdx (op : OpName) (s : State) : (beginOp op s).initIdx = s.initIdx := rfl
@[simp] theorem beginOp_ready (op : OpName) (s : State) : (beginOp op s).ready = s.ready := rfl
@[simp] theorem beginOp_busy (op : OpName) (s : State) : (beginOp op s).busy = true := rfl
@[simp] theorem beginOp_req (op : OpName) (s : State) : (beginOp op s).req = s.req := rfl
@[simp] theorem beginOp_reqLen (op : OpName) (s : State) : (beginOp op s).reqLen = s.reqLen := rfl
@[simp] theorem beginOp_resp (op : OpName) (s : State) : (beginOp op s).resp = s.resp := rfl
@[simp] theorem beginOp_respLen (op : OpName) (s : State) : (beginOp op s).respLen = s.respLen := rfl
@[simp] theorem beginOp_now (op : OpName) (s : State) : (beginOp op s).now = s.now := rfl
@[simp] theorem beginOp_trace (op : OpName) (s : State) : (beginOp op s).trace = s.trace := rfl
@[simp] theorem beginOp_logCnt (op : OpName) (s : State) : (beginOp op s).logCnt = s.logCnt := rfl
@[simp] theorem beginOp_latched (op : OpName) (s : State) : (beginOp op s).latched = s.latched := rfl
@[simp] theorem beginOp_result (op : OpName) (s : State) : (beginOp op s).result = .empty := rfl
@[simp] theorem beginOp_cfg (op : OpName) (s : State) : (beginOp op s).cfg = s.cfg := rfl
@[simp] theorem beginOp_port (op : OpName) (s : State) : (beginOp op s).port = s.port := rfl
@[simp] theorem beginOp_grain (op : OpName) (s : State) : (beginOp op s).grain = s.grain := rfl
@[simp] theorem beginOp_arg (op : OpName) (s : State) : (beginOp op s).arg = s.arg := rfl
@[simp] theorem beginOp_extIn (op : OpName) (s : State) : (beginOp op s).extIn = s.extIn := rfl
@[simp] theorem beginOp_draws (op : OpName) (s : State) : (beginOp op s).draws = s.draws := rfl

/-! ### `finish` -/

@[simp] theorem finish_dev (s : State) : (finish s).dev = s.dev := rfl
@[simp] theorem finish_life (s : State) : (finish s).life = s.life := rfl
@[simp] theorem finish_seq (s : State) : (finish s).seq = Seq.idle := rfl
@[simp] theorem finish_byte (s : State) : (finish s).byte = s.byte := rfl
@[simp] theorem finish_mode (s : State) : (finish s).mode = s.mode := rfl
@[simp] theorem finish_txt (s : State) : (finish s).txt = s.txt := rfl
@[simp] theorem finish_cnt (s : State) : (finish s).cnt = s.cnt := rfl
@[simp] theorem finish_idx (s : State) : (finish s).idx = s.idx := rfl
@[simp] theorem finish_initIdx (s : State) : (finish s).initIdx = s.initIdx := rfl
@[simp] theorem finish_ready (s : State) : (finish s).ready = s.ready := rfl
@[simp] theorem finish_busy (s : State) : (finish s).busy = false := rfl
@[simp] theorem finish_req (s : State) : (finish s).req = s.req := rfl
@[simp] theorem finish_reqLen (s : State) : (finish s).reqLen = s.reqLen := rfl
@[simp] theorem finish_resp (s : State) : (finish s).resp = s.resp := rfl
@[simp] theorem finish_respLen (s : State) : (finish s).respLen = s.respLen := rfl
@[simp] theorem finish_now (s : State) : (finish s).now = s.now := rfl
@[simp] theorem finish_trace (s : State) : (finish s).trace = s.trace := rfl
@[simp] theorem finish_logCnt (s : State) : (finish s).logCnt = s.logCnt := rfl
@[simp] theorem finish_latched (s : State) : (finish s).latched = s.latched := rfl
@[simp] theorem finish_result (s : State) : (finish s).result = s.result := rfl
@[simp] theorem finish_cfg (s : State) : (finish s).cfg = s.cfg := rfl
@[simp] theorem finish_port (s : State) : (finish s).port = s.port := rfl
@[simp] theorem finish_grain (s : State) : (finish s).grain = s.grain := rfl
@[simp] theorem finish_arg (s : State) : (finish s).arg = [] := rfl
@[simp] theorem finish_extIn (s : State) : (finish s).extIn = s.extIn := rfl
@[simp] theorem finish_draws (s : State) : (finish s).draws = s.draws := rfl

/-! ### `startInit` -/

@[simp] theorem startInit_dev (s : State) : (startInit s).dev = s.dev := rfl
@[simp] theorem startInit_life (s : State) : (startInit s).life = s.life := rfl
@[simp] theorem startInit_seq (s : State) : (startInit s).seq = s.seq := rfl
@[simp] theorem startInit_byte (s : State) : (startInit s).byte = s.byte := rfl
@[simp] theorem startInit_mode (s : State) : (startInit s).mode = s.mode := rfl
@[simp] theorem startInit_txt (s : State) : (startInit s).txt = s.txt := rfl
@[simp] theorem startInit_cnt (s : State) : (startInit s).cnt = s.cnt := rfl
@[simp] theorem startInit_idx (s : State) : (startInit s).idx = s.idx := rfl
@[simp] theorem startInit_initIdx (s : State) : (startInit s).initIdx = 0 := rfl
@[simp] theorem startInit_ready (s : State) : (startInit s).ready = false := rfl
@[simp] theorem startInit_busy (s : State) : (startInit s).busy = s.busy := rfl
@[simp] theorem startInit_req (s : State) : (startInit s).req = s.req := rfl
@[simp] theorem startInit_reqLen (s : State) : (startInit s).reqLen = s.reqLen := rfl
@[simp] theorem startInit_resp (s : State) : (startInit s).resp = s.resp := rfl
@[simp] theorem startInit_respLen (s : State) : (startInit s).respLen = s.respLen := rfl
@[simp] theorem startInit_now (s : State) : (startInit s).now = s.now := rfl
@[simp] theorem startInit_trace (s : State) : (startInit s).trace = s.trace := rfl
@[simp] theorem startInit_logCnt (s : State) : (startInit s).logCnt = s.logCnt := rfl
@[simp] theorem startInit_latched (s : State) : (startInit s).latched = s.latched := rfl
@[simp] theorem startInit_result (s : State) : (startInit s).result = s.result := rfl
@[simp] theorem startInit_cfg (s : State) : (startInit s).cfg = s.cfg := rfl
@[simp] theorem startInit_port (s : State) : (startInit s).port = s.port := rfl
@[simp] theorem startInit_grain (s : State) : (startInit s).grain = s.grain := rfl
@[simp] theorem startInit_arg (s : State) : (startInit s).arg = s.arg := rfl
@[simp] theorem startInit_extIn (s : State) : (startInit s).extIn = s.extIn := rfl
@[simp] theorem startInit_draws (s : State) : (startInit s).draws = s.draws := rfl

/-! ### `nextInit` -/

@[simp] theorem nextInit_dev (s : State) : (nextInit s).dev = s.dev := rfl
@[simp] theorem nextInit_life (s : State) : (nextInit s).life = s.life := rfl
@[simp] theorem nextInit_seq (s : State) : (nextInit s).seq = s.seq := rfl
@[simp] theorem nextInit_byte (s : State) : (nextInit s).byte = s.byte := rfl
@[simp] theorem nextInit_mode (s : State) : (nextInit s).mode = s.mode := rfl
@[simp] theorem nextInit_txt (s : State) : (nextInit s).txt = s.txt := rfl
@[simp] theorem nextInit_cnt (s : State) : (nextInit s).cnt = s.cnt := rfl
@[simp] theorem nextInit_idx (s : State) : (nextInit s).idx = s.idx := rfl
@[simp] theorem nextInit_initIdx (s : State) : (nextInit s).initIdx = s.initIdx + 1 := rfl
@[simp] theorem nextInit_ready (s : State) : (nextInit s).ready = s.ready := rfl
@[simp] theorem nextInit_busy (s : State) : (nextInit s).busy = s.busy := rfl
@[simp] theorem nextInit_req (s : State) : (nextInit s).req = s.req := rfl
@[simp] theorem nextInit_reqLen (s : State) : (nextInit s).reqLen = s.reqLen := rfl
@[simp] theorem nextInit_resp (s : State) : (nextInit s).resp = s.resp := rfl
@[simp] theorem nextInit_respLen (s : State) : (nextInit s).respLen = s.respLen := rfl
@[simp] theorem nextInit_now (s : State) : (nextInit s).now = s.now := rfl
@[simp] theorem nextInit_trace (s : State) : (nextInit s).trace = s.trace := rfl
@[simp] theorem nextInit_logCnt (s : State) : (nextInit s).logCnt = s.logCnt := rfl
@[simp] theorem nextInit_latched (s : State) : (nextInit s).latched = s.latched := rfl
@[simp] theorem nextInit_result (s : State) : (nextInit s).result = s.result := rfl
@[simp] theorem nextInit_cfg (s : State) : (nextInit s).cfg = s.cfg := rfl
@[simp] theorem nextInit_port (s : State) : (nextInit s).port = s.port := rfl
@[simp] theorem nextInit_grain (s : State) : (nextInit s).grain = s.grain := rfl
@[simp] theorem nextInit_arg (s : State) : (nextInit s).arg = s.arg := rfl
@[simp] theorem nextInit_extIn (s : State) : (nextInit s).extIn = s.extIn := rfl
@[simp] theorem nextInit_draws (s : State) : (nextInit s).draws = s.draws := rfl

/-! ### `loadText` -/

@[simp] theorem loadText_dev (text : List Byte) (s : State) : (loadText text s).dev = s.dev := rfl
@[simp] theorem loadText_life (text : List Byte) (s : State) : (loadText text s).life = s.life := rfl
@[simp] theorem loadText_seq (text : List Byte) (s : State) : (loadText text s).seq = s.seq := rfl
@[simp] theorem loadText_byte (text : List Byte) (s : State) : (loadText text s).byte = s.byte := rfl
@[simp] theorem loadText_mode (text : List Byte) (s : State) : (loadText text s).mode = s.mode := rfl
@[simp] theorem loadText_txt (text : List Byte) (s : State) : (loadText text s).txt = writeCells s.txt 0 text := rfl
@[simp] theorem loadText_cnt (text : List Byte) (s : State) : (loadText text s).cnt = text.length := rfl
@[simp] theorem loadText_idx (text : List Byte) (s : State) : (loadText text s).idx = 0 := rfl
@[simp] theorem loadText_initIdx (text : List Byte) (s : State) : (loadText text s).initIdx = s.initIdx := rfl
@[simp] theorem loadText_ready (text : List Byte) (s : State) : (loadText text s).ready = s.ready := rfl
@[simp] theorem loadText_busy (text : List Byte) (s : State) : (loadText text s).busy = s.busy := rfl
@[simp] theorem loadText_req (text : List Byte) (s : State) : (loadText text s).req = s.req := rfl
@[simp] theorem loadText_reqLen (text : List Byte) (s : State) : (loadText text s).reqLen = s.reqLen := rfl
@[simp] theorem loadText_resp (text : List Byte) (s : State) : (loadText text s).resp = s.resp := rfl
@[simp] theorem loadText_respLen (text : List Byte) (s : State) : (loadText text s).respLen = s.respLen := rfl
@[simp] theorem loadText_now (text : List Byte) (s : State) : (loadText text s).now = s.now := rfl
@[simp] theorem loadText_trace (text : List Byte) (s : State) : (loadText text s).trace = s.trace := rfl
@[simp] theorem loadText_logCnt (text : List Byte) (s : State) : (loadText text s).logCnt = s.logCnt := rfl
@[simp] theorem loadText_latched (text : List Byte) (s : State) : (loadText text s).latched = s.latched := rfl
@[simp] theorem loadText_result (text : List Byte) (s : State) : (loadText text s).result = s.result := rfl
@[simp] theorem loadText_cfg (text : List Byte) (s : State) : (loadText text s).cfg = s.cfg := rfl
@[simp] theorem loadText_port (text : List Byte) (s : State) : (loadText text s).port = s.port := rfl
@[simp] theorem loadText_grain (text : List Byte) (s : State) : (loadText text s).grain = s.grain := rfl
@[simp] theorem loadText_arg (text : List Byte) (s : State) : (loadText text s).arg = s.arg := rfl
@[simp] theorem loadText_extIn (text : List Byte) (s : State) : (loadText text s).extIn = s.extIn := rfl
@[simp] theorem loadText_draws (text : List Byte) (s : State) : (loadText text s).draws = s.draws := rfl

/-! ### `nextText` -/

@[simp] theorem nextText_dev (s : State) : (nextText s).dev = s.dev := rfl
@[simp] theorem nextText_life (s : State) : (nextText s).life = s.life := rfl
@[simp] theorem nextText_seq (s : State) : (nextText s).seq = s.seq := rfl
@[simp] theorem nextText_byte (s : State) : (nextText s).byte = s.byte := rfl
@[simp] theorem nextText_mode (s : State) : (nextText s).mode = s.mode := rfl
@[simp] theorem nextText_txt (s : State) : (nextText s).txt = s.txt := rfl
@[simp] theorem nextText_cnt (s : State) : (nextText s).cnt = s.cnt := rfl
@[simp] theorem nextText_idx (s : State) : (nextText s).idx = s.idx + 1 := rfl
@[simp] theorem nextText_initIdx (s : State) : (nextText s).initIdx = s.initIdx := rfl
@[simp] theorem nextText_ready (s : State) : (nextText s).ready = s.ready := rfl
@[simp] theorem nextText_busy (s : State) : (nextText s).busy = s.busy := rfl
@[simp] theorem nextText_req (s : State) : (nextText s).req = s.req := rfl
@[simp] theorem nextText_reqLen (s : State) : (nextText s).reqLen = s.reqLen := rfl
@[simp] theorem nextText_resp (s : State) : (nextText s).resp = s.resp := rfl
@[simp] theorem nextText_respLen (s : State) : (nextText s).respLen = s.respLen := rfl
@[simp] theorem nextText_now (s : State) : (nextText s).now = s.now := rfl
@[simp] theorem nextText_trace (s : State) : (nextText s).trace = s.trace := rfl
@[simp] theorem nextText_logCnt (s : State) : (nextText s).logCnt = s.logCnt := rfl
@[simp] theorem nextText_latched (s : State) : (nextText s).latched = s.latched := rfl
@[simp] theorem nextText_result (s : State) : (nextText s).result = s.result := rfl
@[simp] theorem nextText_cfg (s : State) : (nextText s).cfg = s.cfg := rfl
@[simp] theorem nextText_port (s : State) : (nextText s).port = s.port := rfl
@[simp] theorem nextText_grain (s : State) : (nextText s).grain = s.grain := rfl
@[simp] theorem nextText_arg (s : State) : (nextText s).arg = s.arg := rfl
@[simp] theorem nextText_extIn (s : State) : (nextText s).extIn = s.extIn := rfl
@[simp] theorem nextText_draws (s : State) : (nextText s).draws = s.draws := rfl

/-! ### `storeRequest` -/

@[simp] theorem storeRequest_dev (bytes : List Byte) (s : State) : (storeRequest bytes s).dev = s.dev := rfl
@[simp] theorem storeRequest_life (bytes : List Byte) (s : State) : (storeRequest bytes s).life = s.life := rfl
@[simp] theorem storeRequest_seq (bytes : List Byte) (s : State) : (storeRequest bytes s).seq = s.seq := rfl
@[simp] theorem storeRequest_byte (bytes : List Byte) (s : State) : (storeRequest bytes s).byte = s.byte := rfl
@[simp] theorem storeRequest_mode (bytes : List Byte) (s : State) : (storeRequest bytes s).mode = s.mode := rfl
@[simp] theorem storeRequest_txt (bytes : List Byte) (s : State) : (storeRequest bytes s).txt = s.txt := rfl
@[simp] theorem storeRequest_cnt (bytes : List Byte) (s : State) : (storeRequest bytes s).cnt = s.cnt := rfl
@[simp] theorem storeRequest_idx (bytes : List Byte) (s : State) : (storeRequest bytes s).idx = s.idx := rfl
@[simp] theorem storeRequest_initIdx (bytes : List Byte) (s : State) : (storeRequest bytes s).initIdx = s.initIdx := rfl
@[simp] theorem storeRequest_ready (bytes : List Byte) (s : State) : (storeRequest bytes s).ready = s.ready := rfl
@[simp] theorem storeRequest_busy (bytes : List Byte) (s : State) : (storeRequest bytes s).busy = s.busy := rfl
@[simp] theorem storeRequest_req (bytes : List Byte) (s : State) : (storeRequest bytes s).req = writeCells emptyReq 0 (bytes.take reqBuf) := rfl
@[simp] theorem storeRequest_reqLen (bytes : List Byte) (s : State) : (storeRequest bytes s).reqLen = (cutRequest bytes).length := rfl
@[simp] theorem storeRequest_resp (bytes : List Byte) (s : State) : (storeRequest bytes s).resp = s.resp := rfl
@[simp] theorem storeRequest_respLen (bytes : List Byte) (s : State) : (storeRequest bytes s).respLen = s.respLen := rfl
@[simp] theorem storeRequest_now (bytes : List Byte) (s : State) : (storeRequest bytes s).now = s.now := rfl
@[simp] theorem storeRequest_trace (bytes : List Byte) (s : State) : (storeRequest bytes s).trace = s.trace := rfl
@[simp] theorem storeRequest_logCnt (bytes : List Byte) (s : State) : (storeRequest bytes s).logCnt = s.logCnt := rfl
@[simp] theorem storeRequest_latched (bytes : List Byte) (s : State) : (storeRequest bytes s).latched = s.latched := rfl
@[simp] theorem storeRequest_result (bytes : List Byte) (s : State) : (storeRequest bytes s).result = s.result := rfl
@[simp] theorem storeRequest_cfg (bytes : List Byte) (s : State) : (storeRequest bytes s).cfg = s.cfg := rfl
@[simp] theorem storeRequest_port (bytes : List Byte) (s : State) : (storeRequest bytes s).port = s.port := rfl
@[simp] theorem storeRequest_grain (bytes : List Byte) (s : State) : (storeRequest bytes s).grain = s.grain := rfl
@[simp] theorem storeRequest_arg (bytes : List Byte) (s : State) : (storeRequest bytes s).arg = s.arg := rfl
@[simp] theorem storeRequest_extIn (bytes : List Byte) (s : State) : (storeRequest bytes s).extIn = s.extIn := rfl
@[simp] theorem storeRequest_draws (bytes : List Byte) (s : State) : (storeRequest bytes s).draws = s.draws := rfl

/-! ### `storeResponse` -/

@[simp] theorem storeResponse_dev (d : Bool) (s : State) : (storeResponse d s).dev = s.dev := by simp only [storeResponse]
@[simp] theorem storeResponse_life (d : Bool) (s : State) : (storeResponse d s).life = s.life := by simp only [storeResponse]
@[simp] theorem storeResponse_seq (d : Bool) (s : State) : (storeResponse d s).seq = s.seq := by simp only [storeResponse]
@[simp] theorem storeResponse_byte (d : Bool) (s : State) : (storeResponse d s).byte = s.byte := by simp only [storeResponse]
@[simp] theorem storeResponse_mode (d : Bool) (s : State) : (storeResponse d s).mode = s.mode := by simp only [storeResponse]
@[simp] theorem storeResponse_txt (d : Bool) (s : State) : (storeResponse d s).txt = s.txt := by simp only [storeResponse]
@[simp] theorem storeResponse_cnt (d : Bool) (s : State) : (storeResponse d s).cnt = s.cnt := by simp only [storeResponse]
@[simp] theorem storeResponse_idx (d : Bool) (s : State) : (storeResponse d s).idx = s.idx := by simp only [storeResponse]
@[simp] theorem storeResponse_initIdx (d : Bool) (s : State) : (storeResponse d s).initIdx = s.initIdx := by simp only [storeResponse]
@[simp] theorem storeResponse_ready (d : Bool) (s : State) : (storeResponse d s).ready = s.ready := by simp only [storeResponse]
@[simp] theorem storeResponse_busy (d : Bool) (s : State) : (storeResponse d s).busy = s.busy := by simp only [storeResponse]
@[simp] theorem storeResponse_req (d : Bool) (s : State) : (storeResponse d s).req = s.req := by simp only [storeResponse]
@[simp] theorem storeResponse_reqLen (d : Bool) (s : State) : (storeResponse d s).reqLen = s.reqLen := by simp only [storeResponse]
@[simp] theorem storeResponse_resp (d : Bool) (s : State) : (storeResponse d s).resp = writeCells emptyResp 0 (responseBytes d) := by simp only [storeResponse]
@[simp] theorem storeResponse_respLen (d : Bool) (s : State) : (storeResponse d s).respLen = 10 := by simp [storeResponse, responseBytes]
@[simp] theorem storeResponse_now (d : Bool) (s : State) : (storeResponse d s).now = s.now := by simp only [storeResponse]
@[simp] theorem storeResponse_trace (d : Bool) (s : State) : (storeResponse d s).trace = s.trace := by simp only [storeResponse]
@[simp] theorem storeResponse_logCnt (d : Bool) (s : State) : (storeResponse d s).logCnt = s.logCnt := by simp only [storeResponse]
@[simp] theorem storeResponse_latched (d : Bool) (s : State) : (storeResponse d s).latched = s.latched := by simp only [storeResponse]
@[simp] theorem storeResponse_result (d : Bool) (s : State) : (storeResponse d s).result = s.result := by simp only [storeResponse]
@[simp] theorem storeResponse_cfg (d : Bool) (s : State) : (storeResponse d s).cfg = s.cfg := by simp only [storeResponse]
@[simp] theorem storeResponse_port (d : Bool) (s : State) : (storeResponse d s).port = s.port := by simp only [storeResponse]
@[simp] theorem storeResponse_grain (d : Bool) (s : State) : (storeResponse d s).grain = s.grain := by simp only [storeResponse]
@[simp] theorem storeResponse_arg (d : Bool) (s : State) : (storeResponse d s).arg = s.arg := by simp only [storeResponse]
@[simp] theorem storeResponse_extIn (d : Bool) (s : State) : (storeResponse d s).extIn = s.extIn := by simp only [storeResponse]
@[simp] theorem storeResponse_draws (d : Bool) (s : State) : (storeResponse d s).draws = s.draws := by simp only [storeResponse]

/-! ### `dropRequest` -/

@[simp] theorem dropRequest_dev (s : State) : (dropRequest s).dev = s.dev := rfl
@[simp] theorem dropRequest_life (s : State) : (dropRequest s).life = s.life := rfl
@[simp] theorem dropRequest_seq (s : State) : (dropRequest s).seq = s.seq := rfl
@[simp] theorem dropRequest_byte (s : State) : (dropRequest s).byte = s.byte := rfl
@[simp] theorem dropRequest_mode (s : State) : (dropRequest s).mode = s.mode := rfl
@[simp] theorem dropRequest_txt (s : State) : (dropRequest s).txt = s.txt := rfl
@[simp] theorem dropRequest_cnt (s : State) : (dropRequest s).cnt = s.cnt := rfl
@[simp] theorem dropRequest_idx (s : State) : (dropRequest s).idx = s.idx := rfl
@[simp] theorem dropRequest_initIdx (s : State) : (dropRequest s).initIdx = s.initIdx := rfl
@[simp] theorem dropRequest_ready (s : State) : (dropRequest s).ready = s.ready := rfl
@[simp] theorem dropRequest_busy (s : State) : (dropRequest s).busy = s.busy := rfl
@[simp] theorem dropRequest_req (s : State) : (dropRequest s).req = emptyReq := rfl
@[simp] theorem dropRequest_reqLen (s : State) : (dropRequest s).reqLen = 0 := rfl
@[simp] theorem dropRequest_resp (s : State) : (dropRequest s).resp = s.resp := rfl
@[simp] theorem dropRequest_respLen (s : State) : (dropRequest s).respLen = s.respLen := rfl
@[simp] theorem dropRequest_now (s : State) : (dropRequest s).now = s.now := rfl
@[simp] theorem dropRequest_trace (s : State) : (dropRequest s).trace = s.trace := rfl
@[simp] theorem dropRequest_logCnt (s : State) : (dropRequest s).logCnt = s.logCnt := rfl
@[simp] theorem dropRequest_latched (s : State) : (dropRequest s).latched = s.latched := rfl
@[simp] theorem dropRequest_result (s : State) : (dropRequest s).result = s.result := rfl
@[simp] theorem dropRequest_cfg (s : State) : (dropRequest s).cfg = s.cfg := rfl
@[simp] theorem dropRequest_port (s : State) : (dropRequest s).port = s.port := rfl
@[simp] theorem dropRequest_grain (s : State) : (dropRequest s).grain = s.grain := rfl
@[simp] theorem dropRequest_arg (s : State) : (dropRequest s).arg = s.arg := rfl
@[simp] theorem dropRequest_extIn (s : State) : (dropRequest s).extIn = s.extIn := rfl
@[simp] theorem dropRequest_draws (s : State) : (dropRequest s).draws = s.draws := rfl

/-! ### `dropResponse` -/

@[simp] theorem dropResponse_dev (s : State) : (dropResponse s).dev = s.dev := rfl
@[simp] theorem dropResponse_life (s : State) : (dropResponse s).life = s.life := rfl
@[simp] theorem dropResponse_seq (s : State) : (dropResponse s).seq = s.seq := rfl
@[simp] theorem dropResponse_byte (s : State) : (dropResponse s).byte = s.byte := rfl
@[simp] theorem dropResponse_mode (s : State) : (dropResponse s).mode = s.mode := rfl
@[simp] theorem dropResponse_txt (s : State) : (dropResponse s).txt = s.txt := rfl
@[simp] theorem dropResponse_cnt (s : State) : (dropResponse s).cnt = s.cnt := rfl
@[simp] theorem dropResponse_idx (s : State) : (dropResponse s).idx = s.idx := rfl
@[simp] theorem dropResponse_initIdx (s : State) : (dropResponse s).initIdx = s.initIdx := rfl
@[simp] theorem dropResponse_ready (s : State) : (dropResponse s).ready = s.ready := rfl
@[simp] theorem dropResponse_busy (s : State) : (dropResponse s).busy = s.busy := rfl
@[simp] theorem dropResponse_req (s : State) : (dropResponse s).req = s.req := rfl
@[simp] theorem dropResponse_reqLen (s : State) : (dropResponse s).reqLen = s.reqLen := rfl
@[simp] theorem dropResponse_resp (s : State) : (dropResponse s).resp = emptyResp := rfl
@[simp] theorem dropResponse_respLen (s : State) : (dropResponse s).respLen = 0 := rfl
@[simp] theorem dropResponse_now (s : State) : (dropResponse s).now = s.now := rfl
@[simp] theorem dropResponse_trace (s : State) : (dropResponse s).trace = s.trace := rfl
@[simp] theorem dropResponse_logCnt (s : State) : (dropResponse s).logCnt = s.logCnt := rfl
@[simp] theorem dropResponse_latched (s : State) : (dropResponse s).latched = s.latched := rfl
@[simp] theorem dropResponse_result (s : State) : (dropResponse s).result = s.result := rfl
@[simp] theorem dropResponse_cfg (s : State) : (dropResponse s).cfg = s.cfg := rfl
@[simp] theorem dropResponse_port (s : State) : (dropResponse s).port = s.port := rfl
@[simp] theorem dropResponse_grain (s : State) : (dropResponse s).grain = s.grain := rfl
@[simp] theorem dropResponse_arg (s : State) : (dropResponse s).arg = s.arg := rfl
@[simp] theorem dropResponse_extIn (s : State) : (dropResponse s).extIn = s.extIn := rfl
@[simp] theorem dropResponse_draws (s : State) : (dropResponse s).draws = s.draws := rfl

/-! ### `enterRender` -/

@[simp] theorem enterRender_dev (operand : List Byte) (s : State) : (enterRender operand s).dev = s.dev := rfl
@[simp] theorem enterRender_life (operand : List Byte) (s : State) : (enterRender operand s).life = s.life := rfl
@[simp] theorem enterRender_seq (operand : List Byte) (s : State) : (enterRender operand s).seq = { s.seq with phase := .cfg } := rfl
@[simp] theorem enterRender_byte (operand : List Byte) (s : State) : (enterRender operand s).byte = s.byte := rfl
@[simp] theorem enterRender_mode (operand : List Byte) (s : State) : (enterRender operand s).mode = s.mode := rfl
@[simp] theorem enterRender_txt (operand : List Byte) (s : State) : (enterRender operand s).txt = s.txt := rfl
@[simp] theorem enterRender_cnt (operand : List Byte) (s : State) : (enterRender operand s).cnt = s.cnt := rfl
@[simp] theorem enterRender_idx (operand : List Byte) (s : State) : (enterRender operand s).idx = s.idx := rfl
@[simp] theorem enterRender_initIdx (operand : List Byte) (s : State) : (enterRender operand s).initIdx = s.initIdx := rfl
@[simp] theorem enterRender_ready (operand : List Byte) (s : State) : (enterRender operand s).ready = s.ready := rfl
@[simp] theorem enterRender_busy (operand : List Byte) (s : State) : (enterRender operand s).busy = s.busy := rfl
@[simp] theorem enterRender_req (operand : List Byte) (s : State) : (enterRender operand s).req = s.req := rfl
@[simp] theorem enterRender_reqLen (operand : List Byte) (s : State) : (enterRender operand s).reqLen = s.reqLen := rfl
@[simp] theorem enterRender_resp (operand : List Byte) (s : State) : (enterRender operand s).resp = s.resp := rfl
@[simp] theorem enterRender_respLen (operand : List Byte) (s : State) : (enterRender operand s).respLen = s.respLen := rfl
@[simp] theorem enterRender_now (operand : List Byte) (s : State) : (enterRender operand s).now = s.now := rfl
@[simp] theorem enterRender_trace (operand : List Byte) (s : State) : (enterRender operand s).trace = s.trace := rfl
@[simp] theorem enterRender_logCnt (operand : List Byte) (s : State) : (enterRender operand s).logCnt = s.logCnt := rfl
@[simp] theorem enterRender_latched (operand : List Byte) (s : State) : (enterRender operand s).latched = s.latched := rfl
@[simp] theorem enterRender_result (operand : List Byte) (s : State) : (enterRender operand s).result = s.result := rfl
@[simp] theorem enterRender_cfg (operand : List Byte) (s : State) : (enterRender operand s).cfg = s.cfg := rfl
@[simp] theorem enterRender_port (operand : List Byte) (s : State) : (enterRender operand s).port = s.port := rfl
@[simp] theorem enterRender_grain (operand : List Byte) (s : State) : (enterRender operand s).grain = s.grain := rfl
@[simp] theorem enterRender_arg (operand : List Byte) (s : State) : (enterRender operand s).arg = operand := rfl
@[simp] theorem enterRender_extIn (operand : List Byte) (s : State) : (enterRender operand s).extIn = s.extIn := rfl
@[simp] theorem enterRender_draws (operand : List Byte) (s : State) : (enterRender operand s).draws = s.draws := rfl

/-! ### `closeRequest` -/

@[simp] theorem closeRequest_dev (n : Nat) (s : State) : (closeRequest n s).dev = s.dev := rfl
@[simp] theorem closeRequest_life (n : Nat) (s : State) : (closeRequest n s).life = s.life := rfl
@[simp] theorem closeRequest_seq (n : Nat) (s : State) : (closeRequest n s).seq = s.seq := rfl
@[simp] theorem closeRequest_byte (n : Nat) (s : State) : (closeRequest n s).byte = s.byte := rfl
@[simp] theorem closeRequest_mode (n : Nat) (s : State) : (closeRequest n s).mode = s.mode := rfl
@[simp] theorem closeRequest_txt (n : Nat) (s : State) : (closeRequest n s).txt = s.txt := rfl
@[simp] theorem closeRequest_cnt (n : Nat) (s : State) : (closeRequest n s).cnt = s.cnt := rfl
@[simp] theorem closeRequest_idx (n : Nat) (s : State) : (closeRequest n s).idx = s.idx := rfl
@[simp] theorem closeRequest_initIdx (n : Nat) (s : State) : (closeRequest n s).initIdx = s.initIdx := rfl
@[simp] theorem closeRequest_ready (n : Nat) (s : State) : (closeRequest n s).ready = s.ready := rfl
@[simp] theorem closeRequest_busy (n : Nat) (s : State) : (closeRequest n s).busy = s.busy := rfl
@[simp] theorem closeRequest_req (n : Nat) (s : State) : (closeRequest n s).req = emptyReq := rfl
@[simp] theorem closeRequest_reqLen (n : Nat) (s : State) : (closeRequest n s).reqLen = 0 := rfl
@[simp] theorem closeRequest_resp (n : Nat) (s : State) : (closeRequest n s).resp = s.resp := rfl
@[simp] theorem closeRequest_respLen (n : Nat) (s : State) : (closeRequest n s).respLen = s.respLen := rfl
@[simp] theorem closeRequest_now (n : Nat) (s : State) : (closeRequest n s).now = s.now := rfl
@[simp] theorem closeRequest_trace (n : Nat) (s : State) : (closeRequest n s).trace = s.trace := rfl
@[simp] theorem closeRequest_logCnt (n : Nat) (s : State) : (closeRequest n s).logCnt = s.logCnt := rfl
@[simp] theorem closeRequest_latched (n : Nat) (s : State) : (closeRequest n s).latched = s.latched := rfl
@[simp] theorem closeRequest_result (n : Nat) (s : State) : (closeRequest n s).result = .count n := rfl
@[simp] theorem closeRequest_cfg (n : Nat) (s : State) : (closeRequest n s).cfg = s.cfg := rfl
@[simp] theorem closeRequest_port (n : Nat) (s : State) : (closeRequest n s).port = s.port := rfl
@[simp] theorem closeRequest_grain (n : Nat) (s : State) : (closeRequest n s).grain = s.grain := rfl
@[simp] theorem closeRequest_arg (n : Nat) (s : State) : (closeRequest n s).arg = s.arg := rfl
@[simp] theorem closeRequest_extIn (n : Nat) (s : State) : (closeRequest n s).extIn = s.extIn := rfl
@[simp] theorem closeRequest_draws (n : Nat) (s : State) : (closeRequest n s).draws = s.draws := rfl

/-! ### `present` -/

@[simp] theorem present_dev (w : Presented) (s : State) : (present w s).dev = s.dev := rfl
@[simp] theorem present_life (w : Presented) (s : State) : (present w s).life = s.life := rfl
@[simp] theorem present_seq (w : Presented) (s : State) : (present w s).seq = s.seq := rfl
@[simp] theorem present_byte (w : Presented) (s : State) : (present w s).byte = s.byte := rfl
@[simp] theorem present_mode (w : Presented) (s : State) : (present w s).mode = s.mode := rfl
@[simp] theorem present_txt (w : Presented) (s : State) : (present w s).txt = s.txt := rfl
@[simp] theorem present_cnt (w : Presented) (s : State) : (present w s).cnt = s.cnt := rfl
@[simp] theorem present_idx (w : Presented) (s : State) : (present w s).idx = s.idx := rfl
@[simp] theorem present_initIdx (w : Presented) (s : State) : (present w s).initIdx = s.initIdx := rfl
@[simp] theorem present_ready (w : Presented) (s : State) : (present w s).ready = s.ready := rfl
@[simp] theorem present_busy (w : Presented) (s : State) : (present w s).busy = s.busy := rfl
@[simp] theorem present_req (w : Presented) (s : State) : (present w s).req = s.req := rfl
@[simp] theorem present_reqLen (w : Presented) (s : State) : (present w s).reqLen = s.reqLen := rfl
@[simp] theorem present_resp (w : Presented) (s : State) : (present w s).resp = s.resp := rfl
@[simp] theorem present_respLen (w : Presented) (s : State) : (present w s).respLen = s.respLen := rfl
@[simp] theorem present_now (w : Presented) (s : State) : (present w s).now = s.now := rfl
@[simp] theorem present_trace (w : Presented) (s : State) : (present w s).trace = s.trace := rfl
@[simp] theorem present_logCnt (w : Presented) (s : State) : (present w s).logCnt = s.logCnt := rfl
@[simp] theorem present_latched (w : Presented) (s : State) : (present w s).latched = s.latched := rfl
@[simp] theorem present_result (w : Presented) (s : State) : (present w s).result = s.result := rfl
@[simp] theorem present_cfg (w : Presented) (s : State) : (present w s).cfg = s.cfg := rfl
@[simp] theorem present_port (w : Presented) (s : State) : (present w s).port = some w :: s.port := rfl
@[simp] theorem present_grain (w : Presented) (s : State) : (present w s).grain = s.grain := rfl
@[simp] theorem present_arg (w : Presented) (s : State) : (present w s).arg = s.arg := rfl
@[simp] theorem present_extIn (w : Presented) (s : State) : (present w s).extIn = s.extIn := rfl
@[simp] theorem present_draws (w : Presented) (s : State) : (present w s).draws = s.draws := rfl

/-- The trace of a `SET` grows by its three events. -/
@[simp] theorem setPin_trace (p : Pin) (lvl : Bool) (s : State) :
    (setPin p lvl s).trace = s.trace ++ setEvents s.cfg p lvl := by
  simp [setPin, setEvents]

end Sys2Proof.Machine
end

