-- ==== Sys2Proof/Laws/Ops.lean ====
section
/-!
SUPPORT. One law per shared operation: which fields it may change (`PinFrame`), what it does to the device, and what it adds to
the trace together with what that accounts for (`Accounted`).
-/

namespace Sys2Proof.Machine

/-! ## What may change -/

/-- `t` differs from `s` in nothing but the device and the ghost state an access or a delay writes. -/
def PinFrame (s t : State) : Prop :=
  t = { s with dev := t.dev, now := t.now, trace := t.trace, latched := t.latched, draws := t.draws }

theorem PinFrame.refl (s : State) : PinFrame s s := rfl

theorem PinFrame.trans {s t u : State} (h : PinFrame s t) (k : PinFrame t u) : PinFrame s u := by
  unfold PinFrame at *; rw [k, h]

/-- A fold of operations that each keep the frame keeps it. -/
theorem PinFrame.foldl {α : Type} (f : State → α → State) (h : ∀ s a, PinFrame s (f s a)) (as : List α) :
    ∀ s, PinFrame s (as.foldl f s) := by
  induction as with
  | nil => exact PinFrame.refl
  | cons a as ih => intro s; exact (h s a).trans (ih (f s a))

theorem barrier_frame (s : State) : PinFrame s (barrier s) := rfl
theorem delay_frame (d : Nat) (s : State) : PinFrame s (delay d s) := rfl
theorem readFsel_frame (k : Fin 6) (s : State) : PinFrame s (readFsel k s) := rfl
theorem regWrite_frame (r : Reg) (v : Reg32) (s : State) : PinFrame s (regWrite r v s) := rfl
theorem setPin_frame (p : Pin) (lvl : Bool) (s : State) : PinFrame s (setPin p lvl s) := rfl

theorem configureReg_frame (ps : List Pin) (code : BitVec 3) (s : State) (k : Fin 6) :
    PinFrame s (configureReg ps code s k) := rfl

theorem configurePins_frame (ps : List Pin) (dir : PinDirection) (s : State) :
    PinFrame s (configurePins ps dir s) :=
  (barrier_frame s).trans ((PinFrame.foldl _ (configureReg_frame ps _) _ _).trans (barrier_frame _))

theorem configureAllBody_frame (s : State) : PinFrame s (configureAllBody s) :=
  (configurePins_frame _ _ _).trans (configurePins_frame _ _ _)

theorem clearLine_frame (s : State) (i : Nat) : PinFrame s (clearLine s i) := rfl

theorem raiseLine_frame (n : Nibble) (s : State) (i : Nat) : PinFrame s (raiseLine n s i) := by
  unfold raiseLine
  split
  · exact setPin_frame _ _ s
  · exact PinFrame.refl s

theorem loadNibble_frame (n : Nibble) (s : State) : PinFrame s (loadNibble n s) :=
  (PinFrame.foldl _ clearLine_frame _ s).trans (PinFrame.foldl _ (raiseLine_frame n) _ _)

theorem driveE_frame (lvl : Bool) (s : State) : PinFrame s (driveE lvl s) := rfl

theorem latchNibble_frame (s : State) : PinFrame s (latchNibble s) :=
  ((((delay_frame _ _).trans (driveE_frame _ _)).trans (delay_frame _ _)).trans (driveE_frame _ _)).trans
    (delay_frame _ _)

/-- A transfer writes `BYTE` and `MODE` and otherwise keeps the frame. -/
theorem transmitByte_frame (b : Byte) (m : Mode) (s : State) :
    PinFrame (loadByte b m s) (transmitByte b m s) :=
  ((((setPin_frame _ _ _).trans (loadNibble_frame _ _)).trans (latchNibble_frame _)).trans
    (loadNibble_frame _ _)).trans (latchNibble_frame _)

/-- Every field a frame keeps, at once. -/
theorem PinFrame.fields {s t : State} (h : PinFrame s t) :
    t.life = s.life ∧ t.seq = s.seq ∧ t.byte = s.byte ∧ t.mode = s.mode ∧ t.txt = s.txt ∧ t.cnt = s.cnt ∧
      t.idx = s.idx ∧ t.initIdx = s.initIdx ∧ t.ready = s.ready ∧ t.busy = s.busy ∧ t.req = s.req ∧
      t.reqLen = s.reqLen ∧ t.resp = s.resp ∧ t.respLen = s.respLen ∧ t.logCnt = s.logCnt ∧ t.result = s.result ∧
      t.cfg = s.cfg ∧ t.port = s.port ∧ t.grain = s.grain ∧ t.arg = s.arg ∧ t.extIn = s.extIn := by
  rw [h]; simp

/-! ## The device -/

/-- A write to a set or clear register leaves every function-select field. -/
@[simp] theorem fieldOf_deviceWrite_latch (lvl : Bool) (j : Fin 2) (v : Reg32) (d : Device) (p : Pin) :
    fieldOf (deviceWrite (if lvl then .set j else .clr j) v d) p = fieldOf d p := by
  cases lvl <;> rfl

/-- A write to a function-select register leaves every latch bit. -/
@[simp] theorem latchBit_deviceWrite_fsel (k : Fin 6) (v : Reg32) (d : Device) (p : Pin) :
    latchBit (deviceWrite (.fsel k) v d) p = latchBit d p := rfl

/-- Bit `i` of a pin's word is the pin's own bit. -/
theorem getLsbD_pinWord (p : Pin) (i : Nat) : (pinWord p).getLsbD i = decide (i = bitOf p) := by
  have hb : bitOf p < 32 := Nat.mod_lt _ (by decide)
  simp only [pinWord, BitVec.getLsbD_shiftLeft, BitVec.getLsbD_one]
  by_cases h : i = bitOf p
  · subst h; simp [hb]
  · simp [h]; omega

theorem getElem_pinWord (p : Pin) (i : Nat) (h : i < 32) : (pinWord p)[i] = decide (i = bitOf p) := by
  rw [← BitVec.getLsbD_eq_getElem, getLsbD_pinWord]

/-- A pin's bit belongs to its bank. -/
theorem getLsbD_pinMask_bankOf (p : Pin) : (pinMask (bankOf p)).getLsbD (bitOf p) = true := by
  revert p; decide

/-- Two pins with one bank and one bit are one pin. -/
theorem pin_ext {p q : Pin} (h : bankOf p = bankOf q) (k : bitOf p = bitOf q) : p = q := by
  have h' : p.val / 32 = q.val / 32 := congrArg Fin.val h
  have k' : p.val % 32 = q.val % 32 := k
  exact Fin.ext (by omega)

/-- `SET(p, level)` writes the latch bit of `p` and no other pin's (40 R135). -/
theorem latchBit_setDevice (p q : Pin) (lvl : Bool) (d : Device) :
    latchBit (deviceWrite (if lvl then .set (bankOf p) else .clr (bankOf p)) (pinWord p) d) q =
      if q = p then lvl else latchBit d q := by
  have hb : bitOf q < 32 := Nat.mod_lt _ (by decide)
  by_cases hj : bankOf q = bankOf p
  · by_cases hi : bitOf q = bitOf p
    · have hq : q = p := pin_ext hj hi
      subst hq
      cases lvl <;> simp [latchBit, deviceWrite, getLsbD_pinWord, getLsbD_pinMask_bankOf, hb]
    · have hq : q ≠ p := fun h => hi (by rw [h])
      cases lvl <;> simp [latchBit, deviceWrite, getElem_pinWord, hj, hi, hq, hb]
  · have hq : q ≠ p := fun h => hj (by rw [h])
    have hv : ¬ (bankOf p).val = (bankOf q).val := fun h => hj (Fin.ext h.symm)
    cases lvl <;> simp [latchBit, deviceWrite, hv, hq]


/-! ## The registers of an admissible parameter set -/

/-- In a list whose images are all different, the first element with a given image is the one that has it. -/
theorem find?_of_nodup_map {α : Type} (f : α → Nat) (r : α) :
    ∀ l : List α, (l.map f).Nodup → r ∈ l → l.find? (fun x => f x == f r) = some r
  | [], _, h => by cases h
  | a :: l, hn, h => by
    rw [List.map_cons, List.nodup_cons] at hn
    rcases List.mem_cons.1 h with rfl | h
    · simp
    · have hne : f a ≠ f r := fun he => hn.1 (he ▸ List.mem_map_of_mem (f := f) h)
      simp [hne, find?_of_nodup_map f r l hn.2 h]

theorem mem_allRegs (r : Reg) : r ∈ allRegs := by
  cases r with
  | fsel k => revert k; decide
  | set j => revert j; decide
  | clr j => revert j; decide
  | lev j => revert j; decide

theorem vector6_toList {α : Type} (v : Vector α 6) : v.toList = [v[0], v[1], v[2], v[3], v[4], v[5]] := by
  apply List.ext_getElem <;> simp
  intro i hi
  rcases i with _ | _ | _ | _ | _ | _ | i <;> first | rfl | omega

theorem vector2_toList {α : Type} (v : Vector α 2) : v.toList = [v[0], v[1]] := by
  apply List.ext_getElem <;> simp
  intro i hi
  rcases i with _ | _ | i <;> first | rfl | omega

theorem offsets_eq_map (c : Config) : c.offsets = allRegs.map (offsetOf c) := by
  simp [Config.offsets, vector6_toList, vector2_toList, allRegs, offsetOf]

/-- The offset of a register decodes to it. -/
theorem regAt_offsetOf (c : Config) (h : c.valid = true) (r : Reg) : regAt c (offsetOf c r) = some r := by
  have hn : (allRegs.map (offsetOf c)).Nodup := by
    rw [← offsets_eq_map]
    simp only [Config.valid, Bool.and_eq_true, decide_eq_true_eq] at h
    exact h.1.1.1.2
  exact find?_of_nodup_map (offsetOf c) r allRegs hn (mem_allRegs r)

/-! ## What an operation adds to the trace -/

@[simp] theorem elapsed_append (es fs : List Event) : elapsed (es ++ fs) = elapsed es + elapsed fs := by
  induction es with
  | nil => simp [elapsed]
  | cons e es ih => cases e <;> simp [elapsed, ih]; omega

@[simp] theorem replay_append (c : Config) (d : Device) (es fs : List Event) :
    replay c d (es ++ fs) = replay c (replay c d es) fs := by simp [replay]

@[simp] theorem logEntries_append (es fs : List Event) : logEntries (es ++ fs) = logEntries es + logEntries fs := by
  simp [logEntries]

/-- The latch events of two lists of events, one after the other. -/
theorem latchDevices_append (c : Config) (es fs : List Event) :
    ∀ d, latchDevices c d (es ++ fs) = latchDevices c d es ++ latchDevices c (replay c d es) fs := by
  induction es with
  | nil => intro d; rfl
  | cons e es ih =>
    intro d
    cases e with
    | wr off v =>
      simp only [List.cons_append, latchDevices, ih, replay, List.foldl_cons]
      split <;> rfl
    | rd off v => exact ih d
    | bar => exact ih d
    | dly w => exact ih d
    | log => exact ih d

/-- Each latch event has one least time. -/
theorem latchTimes_length (c : Config) (es : List Event) :
    ∀ (t : Nat) (d : Device), (latchTimes c t d es).length = (latchDevices c d es).length := by
  induction es with
  | nil => intro t d; rfl
  | cons e es ih =>
    intro t d
    cases e with
    | wr off v =>
      simp only [latchTimes, latchDevices]
      split
      · simp [ih]
      · exact ih t _
    | rd off v => exact ih t d
    | bar => exact ih t d
    | dly w => exact ih _ d
    | log => exact ih t d

/-- A latch event that samples the device `d`, with any free bits for pads the block does not drive. -/
def Samples (c : Config) (l : Latch) (d : Device) : Prop := ∃ free : BitVec 64, l = latchOf c d free

/-- What a part of a run under the parameters `c` adds: its events, the device as their fold, at least the time they take, one
diagnostic for each `LOG`, one latch event for each falling edge of E, a sample of the device there. -/
structure Accounted (c : Config) (s t : State) (es : List Event) : Prop where
  start : s.cfg = c
  cfg : t.cfg = c
  trace : t.trace = s.trace ++ es
  dev : t.dev = replay c s.dev es
  now : s.now + elapsed es ≤ t.now
  logCnt : t.logCnt = s.logCnt + logEntries es
  latched : ∃ ls, t.latched = s.latched ++ ls ∧ List.Forall₂ (Samples c) ls (latchDevices c s.dev es)

variable {c : Config}

theorem Accounted.trans {s t u : State} {es fs : List Event} (h : Accounted c s t es) (k : Accounted c t u fs) :
    Accounted c s u (es ++ fs) where
  start := h.start
  cfg := k.cfg
  trace := by rw [k.trace, h.trace, List.append_assoc]
  dev := by rw [k.dev, h.dev, replay_append]
  now := by have := h.now; have := k.now; rw [elapsed_append]; omega
  logCnt := by rw [k.logCnt, h.logCnt, logEntries_append]; omega
  latched := by
    obtain ⟨ls, hl, hs⟩ := h.latched
    obtain ⟨ms, kl, ks⟩ := k.latched
    rw [h.dev] at ks
    exact ⟨ls ++ ms, by rw [kl, hl, List.append_assoc], latchDevices_append c es fs s.dev ▸ List.rel_append hs ks⟩

/-- An update of no accounted field accounts for nothing. -/
theorem Accounted.of_eq {s t : State} (hc : s.cfg = c) (hc' : t.cfg = s.cfg) (ht : t.trace = s.trace) (hd : t.dev = s.dev)
    (hn : t.now = s.now) (hl : t.logCnt = s.logCnt) (hla : t.latched = s.latched) : Accounted c s t [] where
  start := hc
  cfg := hc'.trans hc
  trace := by simp [ht]
  dev := hd
  now := by simp [elapsed, hn]
  logCnt := by simp [logEntries, hl]
  latched := ⟨[], by simp [hla], .nil⟩

theorem Accounted.refl (s : State) (hc : s.cfg = c) : Accounted c s s [] := .of_eq hc rfl rfl rfl rfl rfl rfl

theorem barrier_accounted (s : State) (hc : s.cfg = c) : Accounted c s (barrier s) [.bar] :=
  ⟨hc, hc, rfl, rfl, by simp [elapsed], by simp [logEntries], ⟨[], by simp, .nil⟩⟩

theorem delay_accounted (d : Nat) (s : State) (hc : s.cfg = c) : Accounted c s (delay d s) [.dly d] :=
  ⟨hc, hc, rfl, rfl, by simp [elapsed], by simp [logEntries], ⟨[], by simp, .nil⟩⟩

theorem logEntry_accounted (s : State) (hc : s.cfg = c) : Accounted c s (logEntry s) [.log] :=
  ⟨hc, hc, rfl, rfl, by simp [elapsed], by simp [logEntries], ⟨[], by simp, .nil⟩⟩

theorem readFsel_accounted (k : Fin 6) (s : State) (hc : s.cfg = c) :
    Accounted c s (readFsel k s) [.rd (offsetOf c (.fsel k)) s.dev.fsel[k]] := by
  subst hc
  exact ⟨rfl, rfl, rfl, rfl, by simp [elapsed], by simp [logEntries], ⟨[], by simp, .nil⟩⟩

theorem readLev_accounted (j : Fin 2) (s : State) (hc : s.cfg = c) :
    Accounted c s (readLev j s) [.rd (offsetOf c (.lev j)) (levelNow s j)] := by
  subst hc
  exact ⟨rfl, rfl, rfl, rfl, by simp [elapsed], by simp [logEntries], ⟨[], by simp, .nil⟩⟩

theorem regWrite_accounted (r : Reg) (v : Reg32) (s : State) (hc : s.cfg = c) (h : c.valid = true) :
    Accounted c s (regWrite r v s) [.wr (offsetOf c r) v] := by
  subst hc
  refine ⟨rfl, rfl, rfl, by simp [replay, eventDevice, regAt_offsetOf _ h], by simp [elapsed], by simp [logEntries], ?_⟩
  refine ⟨_, regWrite_latched r v s, ?_⟩
  simp only [latchesOfWrite, latchDevices, eventDevice, regAt_offsetOf _ h]
  split
  · exact .cons ⟨_, rfl⟩ .nil
  · exact .nil

theorem setPin_accounted (p : Pin) (lvl : Bool) (s : State) (hc : s.cfg = c) (h : c.valid = true) :
    Accounted c s (setPin p lvl s) (setEvents c p lvl) :=
  (barrier_accounted s hc).trans ((regWrite_accounted _ _ (barrier s) hc h).trans (barrier_accounted _ hc))

theorem clearLine_accounted (i : Nat) (s : State) (hc : s.cfg = c) (h : c.valid = true) :
    Accounted c s (clearLine s i) (setEvents c (dpin c.pins i) false) := by
  subst hc; exact setPin_accounted _ _ s rfl h

theorem raiseLine_accounted (n : Nibble) (i : Nat) (s : State) (hc : s.cfg = c) (h : c.valid = true) :
    Accounted c s (raiseLine n s i) (if n.getLsbD i then setEvents c (dpin c.pins i) true else []) := by
  subst hc
  unfold raiseLine
  split
  · exact setPin_accounted _ _ s rfl h
  · exact Accounted.refl s rfl

theorem driveE_accounted (lvl : Bool) (s : State) (hc : s.cfg = c) (h : c.valid = true) :
    Accounted c s (driveE lvl s) (setEvents c c.pins.e lvl) := by
  subst hc; exact setPin_accounted _ _ s rfl h

theorem setModeLine_accounted (s : State) (hc : s.cfg = c) (h : c.valid = true) :
    Accounted c s (setModeLine s) (setEvents c c.pins.rs s.mode.bit) := by
  subst hc; exact setPin_accounted _ _ s rfl h

theorem loadNibble_accounted (n : Nibble) (s : State) (hc : s.cfg = c) (h : c.valid = true) :
    Accounted c s (loadNibble n s) (loadEvents c n) := by
  have a0 := clearLine_accounted 0 s hc h
  have a1 := a0.trans (clearLine_accounted 1 _ a0.cfg h)
  have a2 := a1.trans (clearLine_accounted 2 _ a1.cfg h)
  have a3 := a2.trans (clearLine_accounted 3 _ a2.cfg h)
  have b0 := a3.trans (raiseLine_accounted n 0 _ a3.cfg h)
  have b1 := b0.trans (raiseLine_accounted n 1 _ b0.cfg h)
  have b2 := b1.trans (raiseLine_accounted n 2 _ b1.cfg h)
  exact b2.trans (raiseLine_accounted n 3 _ b2.cfg h)

theorem latchNibble_accounted (s : State) (hc : s.cfg = c) (h : c.valid = true) :
    Accounted c s (latchNibble s) (latchEvents c) := by
  have a := delay_accounted tNibbleSettle s hc
  have b := a.trans (driveE_accounted true _ a.cfg h)
  have d := b.trans (delay_accounted tNibbleSettle _ b.cfg)
  have e := d.trans (driveE_accounted false _ d.cfg h)
  have f := e.trans (delay_accounted tNibbleSettle _ e.cfg)
  simpa [latchEvents, latchNibble, tNibbleSettle] using f

/-- A transfer accounts for the events of 41 R161. -/
theorem transmitByte_accounted (b : Byte) (m : Mode) (s : State) (hc : s.cfg = c) (h : c.valid = true) :
    Accounted c s (transmitByte b m s) (transmitEvents c b m) := by
  have a0 : Accounted c s (loadByte b m s) [] := .of_eq hc rfl rfl rfl rfl rfl rfl
  have a1 := a0.trans (setModeLine_accounted (loadByte b m s) a0.cfg h)
  have a2 := a1.trans (loadNibble_accounted (highNibble b) _ a1.cfg h)
  have a3 := a2.trans (latchNibble_accounted _ a2.cfg h)
  have a4 := a3.trans (loadNibble_accounted (lowNibble b) _ a3.cfg h)
  exact a4.trans (latchNibble_accounted _ a4.cfg h)

theorem configureReg_accounted (ps : List Pin) (code : BitVec 3) (s : State) (k : Fin 6) (hc : s.cfg = c)
    (h : c.valid = true) :
    Accounted c s (configureReg ps code s k)
      [.rd (offsetOf c (.fsel k)) s.dev.fsel[k], .wr (offsetOf c (.fsel k)) (assembled code k ps s.dev.fsel[k])] :=
  (readFsel_accounted k s hc).trans (regWrite_accounted (.fsel k) (assembled code k ps s.dev.fsel[k]) _ hc h)

/-! ## What a step can do -/

/-- A register access asked for from outside is always refused. -/
theorem refuseAccess_eq (s : State) : refuseAccess s =
    if s.life = .inactive then .refused .useWhileUnmapped else if s.busy then .refused .busy else .refused .badAccess := rfl

theorem step_of_presented {s : State} {w : Presented} {rest : List (Option Presented)} (h : s.port = some w :: rest) :
    step s = takePresented w { s with port := rest } := by
  simp only [step, h]

theorem step_of_silent {s : State} (h : s.port = [] ∨ s.port.head? = some none) :
    step s = proceed { s with port := s.port.tail } := by
  rcases h with h | h
  · simp only [step, h, List.tail_nil]
    rw [← h]
  · cases hp : s.port with
    | nil => simp [hp] at h
    | cons a rest =>
      simp only [hp, List.head?_cons, Option.some.injEq] at h
      simp only [step, hp, h, List.tail_cons]

theorem takePresented_ok {w : Presented} {i : Instr} {left : List Byte} (h : decode w = .ok (i, left)) (s : State) :
    takePresented w s = performPresented i s := by
  simp only [takePresented, h]

theorem takePresented_error {w : Presented} {e : DecodeError} (h : decode w = .error e) (s : State) :
    takePresented w s = rejectWord e s := by
  simp only [takePresented, h]

/-- Everything a step that answers a next state can have done: taken an instruction that is no register access and performed it, made
the next position of the operation in progress, or left an idle block as it is. -/
theorem step_next_cases {s t : State} (h : step s = .next t) :
    (∃ w rest i left, s.port = some w :: rest ∧ decode w = .ok (i, left) ∧ isAccess i = false ∧
      perform i { s with port := rest } = .next t) ∨
    (s.busy = true ∧ microStep { s with port := s.port.tail } = .next t) ∨
    (s.busy = false ∧ t = { s with port := s.port.tail }) := by
  have hr : ∀ u : State, refuseAccess u ≠ .next t := by
    intro u; rw [refuseAccess_eq]; split
    · simp
    · split <;> simp
  have hq : proceed { s with port := s.port.tail } = .next t →
      (s.busy = true ∧ microStep { s with port := s.port.tail } = .next t) ∨
      (s.busy = false ∧ t = { s with port := s.port.tail }) := by
    intro hp
    cases hb : s.busy <;> simp only [proceed, hb] at hp
    · exact .inr ⟨rfl, by simpa using hp.symm⟩
    · exact .inl ⟨rfl, by simpa using hp⟩
  cases hp : s.port with
  | nil => rw [step_of_silent (.inl hp)] at h; exact .inr (hp ▸ hq h)
  | cons a rest =>
    cases a with
    | none => rw [step_of_silent (.inr (by simp [hp]))] at h; exact .inr (hp ▸ hq h)
    | some w =>
      rw [step_of_presented hp] at h
      cases hd : decode w with
      | error e =>
        rw [takePresented_error hd, rejectWord] at h
        split at h
        · exact absurd h (hr _)
        · cases h
      | ok r =>
        obtain ⟨i, left⟩ := r
        rw [takePresented_ok hd, performPresented] at h
        cases ha : isAccess i <;> simp only [ha] at h
        · exact .inl ⟨w, rest, i, left, rfl, hd, ha, by simpa using h⟩
        · exact absurd (by simpa using h) (hr _)

end Sys2Proof.Machine
end

