-- ==== Sys2Proof/Laws/PerInstr.lean ====
section
/-!
SUPPORT. One family of statements made per instruction: the encoder writes the bits spec/opcode_table.json fixes for the
instruction's row, in the row's format. The table below is written from the JSON file, row by row, and not from the encoder.
-/

namespace Sys2Proof.Laws.EncodesTableRow

/-- A row: its format, its mask and its match, in bytes, the first byte of the instruction first. A format of fewer than eight bits
has its bits at the low end of its byte, with the bits above fixed at 0. -/
structure Row where
  fmt : Format
  mask : List Byte
  value : List Byte
  deriving DecidableEq, Repr

/-- A row of format `OP`. -/
def opRow (sel : Byte) : Row := ⟨.op, [0xFF], [sel]⟩

/-- A row of format `LCDW` that fixes all nine bits. -/
def wordRow (b : Byte) : Row := ⟨.lcdw, [0xFF, 0xFF], [b, 0x00]⟩

/-- A row of format `REGACC`. -/
def accessRow (off : Byte) : Row := ⟨.regacc, [0xFF], [off]⟩

/-- A row of format `FSELF` that fixes the code. -/
def codeRow (code : Byte) : Row := ⟨.fself, [0xFF], [code]⟩

/-- The row of an instruction. -/
def row : Instr → Row
  | .configure _ _ => opRow 0x00
  | .set _ _ => opRow 0x01
  | .read _ => opRow 0x02
  | .transmit _ _ => opRow 0x03
  | .writeCommand _ => opRow 0x04
  | .writeChar _ => opRow 0x05
  | .init => opRow 0x06
  | .writeText _ _ => opRow 0x07
  | .configureAll => opRow 0x08
  | .ledSet _ => opRow 0x09
  | .buttonRead => opRow 0x0A
  | .render _ _ => opRow 0x0B
  | .activate _ => opRow 0x0C
  | .deactivate => opRow 0x0D
  | .readReq => opRow 0x0E
  | .writeReq _ => opRow 0x0F
  | .lcdCommand _ => ⟨.lcdw, [0x00, 0xFF], [0x00, 0x00]⟩
  | .lcdChar _ => ⟨.lcdw, [0x00, 0xFF], [0x00, 0x01]⟩
  | .init0 => wordRow 0x33
  | .init1 => wordRow 0x32
  | .init2 => wordRow 0x06
  | .init3 => wordRow 0x0C
  | .init4 => wordRow 0x06
  | .init5 => wordRow 0x01
  | .notSent28 => wordRow 0x28
  | .gpfsel0 _ => accessRow 0x00
  | .gpfsel1 _ => accessRow 0x04
  | .gpfsel2 _ => accessRow 0x08
  | .gpfsel3 _ => accessRow 0x0C
  | .gpfsel4 _ => accessRow 0x10
  | .gpfsel5 _ => accessRow 0x14
  | .gpset0 _ => accessRow 0x1C
  | .gpset1 _ => accessRow 0x20
  | .gpclr0 _ => accessRow 0x28
  | .gpclr1 _ => accessRow 0x2C
  | .gplev0 _ => accessRow 0x34
  | .gplev1 _ => accessRow 0x38
  | .fselInput => codeRow 0x00
  | .fselOutput => codeRow 0x01
  | .fselAlt2 => codeRow 0x02
  | .fselAlt3 => codeRow 0x03
  | .fselAlt4 => codeRow 0x04
  | .fselAlt5 => codeRow 0x05
  | .fselAlt6 => codeRow 0x06
  | .fselAlt7 => codeRow 0x07
  | .fselPlace _ _ => ⟨.fself, [0xF8], [0x00]⟩
  | .pinBit _ => ⟨.pinbit, [], []⟩
  | .latchSample => ⟨.nib, [], []⟩
  | .wireReadResp _ => ⟨.wireResponse, [0xFF, 0xFF, 0xFF, 0xFF, 0xFF, 0xFF, 0xFF, 0xFF, 0xFE, 0xFF],
      [0x42, 0x75, 0x74, 0x74, 0x6F, 0x6E, 0x3A, 0x20, 0x30, 0x0A]⟩
  | .wireWriteReq _ => ⟨.wireRequest, [], []⟩

/-- The first bytes of the encoding, under the row's mask, are the row's match. -/
def masked : List Byte → List Byte → List Byte
  | m :: ms, b :: bs => (b &&& m) :: masked ms bs
  | _, _ => []

/-- The encoding of `i` is in the format of its row and has the bits the row fixes. -/
def Statement (i : Instr) : Prop :=
  (encode i).fmt = (row i).fmt ∧ masked (row i).mask (encode i).bytes = (row i).value

theorem configure (pins : List Nat) (dir : PinDirection) : Statement (.configure pins dir) := ⟨rfl, rfl⟩
theorem set (p : Nat) (lvl : Bool) : Statement (.set p lvl) := ⟨rfl, rfl⟩
theorem read (p : Nat) : Statement (.read p) := ⟨rfl, rfl⟩
theorem transmit (b : Byte) (m : Mode) : Statement (.transmit b m) := ⟨rfl, rfl⟩
theorem writeCommand (b : Byte) : Statement (.writeCommand b) := ⟨rfl, rfl⟩
theorem writeChar (b : Byte) : Statement (.writeChar b) := ⟨rfl, rfl⟩
theorem init : Statement .init := ⟨rfl, rfl⟩
theorem writeText (t : List Byte) (n : Nat) : Statement (.writeText t n) := ⟨rfl, rfl⟩
theorem configureAll : Statement .configureAll := ⟨rfl, rfl⟩
theorem ledSet (lvl : Bool) : Statement (.ledSet lvl) := ⟨rfl, rfl⟩
theorem buttonRead : Statement .buttonRead := ⟨rfl, rfl⟩
theorem render (t : List Byte) (n : Nat) : Statement (.render t n) := ⟨rfl, rfl⟩
theorem activate (ok : Bool) : Statement (.activate ok) := ⟨rfl, rfl⟩
theorem deactivate : Statement .deactivate := ⟨rfl, rfl⟩
theorem readReq : Statement .readReq := ⟨rfl, rfl⟩
theorem writeReq (bytes : List Byte) : Statement (.writeReq bytes) := ⟨rfl, rfl⟩
theorem lcdCommand (b : Byte) : Statement (.lcdCommand b) := ⟨rfl, by simp [row, encode, masked]⟩
theorem lcdChar (b : Byte) : Statement (.lcdChar b) := ⟨rfl, by simp [row, encode, masked]⟩
theorem init0 : Statement .init0 := ⟨rfl, rfl⟩
theorem init1 : Statement .init1 := ⟨rfl, rfl⟩
theorem init2 : Statement .init2 := ⟨rfl, rfl⟩
theorem init3 : Statement .init3 := ⟨rfl, rfl⟩
theorem init4 : Statement .init4 := ⟨rfl, rfl⟩
theorem init5 : Statement .init5 := ⟨rfl, rfl⟩
theorem notSent28 : Statement .notSent28 := ⟨rfl, rfl⟩
theorem gpfsel0 (a : Access) : Statement (.gpfsel0 a) := by cases a <;> exact ⟨rfl, rfl⟩
theorem gpfsel1 (a : Access) : Statement (.gpfsel1 a) := by cases a <;> exact ⟨rfl, rfl⟩
theorem gpfsel2 (a : Access) : Statement (.gpfsel2 a) := by cases a <;> exact ⟨rfl, rfl⟩
theorem gpfsel3 (a : Access) : Statement (.gpfsel3 a) := by cases a <;> exact ⟨rfl, rfl⟩
theorem gpfsel4 (a : Access) : Statement (.gpfsel4 a) := by cases a <;> exact ⟨rfl, rfl⟩
theorem gpfsel5 (a : Access) : Statement (.gpfsel5 a) := by cases a <;> exact ⟨rfl, rfl⟩
theorem gpset0 (a : Access) : Statement (.gpset0 a) := by cases a <;> exact ⟨rfl, rfl⟩
theorem gpset1 (a : Access) : Statement (.gpset1 a) := by cases a <;> exact ⟨rfl, rfl⟩
theorem gpclr0 (a : Access) : Statement (.gpclr0 a) := by cases a <;> exact ⟨rfl, rfl⟩
theorem gpclr1 (a : Access) : Statement (.gpclr1 a) := by cases a <;> exact ⟨rfl, rfl⟩
theorem gplev0 (a : Access) : Statement (.gplev0 a) := by cases a <;> exact ⟨rfl, rfl⟩
theorem gplev1 (a : Access) : Statement (.gplev1 a) := by cases a <;> exact ⟨rfl, rfl⟩
theorem fselInput : Statement .fselInput := ⟨rfl, rfl⟩
theorem fselOutput : Statement .fselOutput := ⟨rfl, rfl⟩
theorem fselAlt2 : Statement .fselAlt2 := ⟨rfl, rfl⟩
theorem fselAlt3 : Statement .fselAlt3 := ⟨rfl, rfl⟩
theorem fselAlt4 : Statement .fselAlt4 := ⟨rfl, rfl⟩
theorem fselAlt5 : Statement .fselAlt5 := ⟨rfl, rfl⟩
theorem fselAlt6 : Statement .fselAlt6 := ⟨rfl, rfl⟩
theorem fselAlt7 : Statement .fselAlt7 := ⟨rfl, rfl⟩
theorem fselPlace (p : Nat) (code : BitVec 3) : Statement (.fselPlace p code) := by
  have h : ∀ k : BitVec 3, k.setWidth 8 &&& 0xF8#8 = 0 := by decide
  exact ⟨rfl, congrArg (fun b => [b]) (h code)⟩
theorem pinBit (p : Nat) : Statement (.pinBit p) := ⟨rfl, rfl⟩
theorem latchSample : Statement .latchSample := ⟨rfl, rfl⟩
theorem wireReadResp (d : Bool) : Statement (.wireReadResp d) := by cases d <;> exact ⟨rfl, rfl⟩
theorem wireWriteReq (bytes : List Byte) : Statement (.wireWriteReq bytes) := ⟨rfl, rfl⟩

end Sys2Proof.Laws.EncodesTableRow
end

