-- ==== Sys2Proof/Tests/Slice0.lean ====
section
/-!
SUPPORT. The model's own tests: an ill-formed term for each check of WellFormed; words written out from the encodings of
spec/30_encoding.md and decoded; one step of each operation against the vectors of spec/95_test_vectors.md (V1 to V51, default
offsets and the TV pin map); and, for every obligation that has hypotheses, a witness that meets them all.
-/

-- one theorem after another: each `decide +kernel` else holds a thread of its own
set_option Elab.async false

namespace Sys2Proof.Tests

open Sys2Proof Sys2Proof.Machine

/-! ## Helpers -/

/-- Active, with all nine pins configured as spec/95 says ("all configured") and the latch all 0. -/
def tActive : State :=
  { State.reset with
    life := .active
    dev := { fsel := #v[0x09200000, 0x00000249, 0x00000008, 0, 0, 0], outl := #v[0, 0] } }

/-- `tActive` with given function-select registers and latches. -/
def tDevice (fsel : Vector Reg32 6) (outl : Vector Reg32 2) : State := { tActive with dev := ⟨fsel, outl⟩ }

/-- `tActive` with the latch of bank 0 at `v`. -/
def tLatch (v : Reg32) : State := tDevice #v[0x09200000, 0x00000249, 0x00000008, 0, 0, 0] #v[v, 0]

/-- `tActive` with the external level of pin 20 at the next level read. -/
def tButton (b : Bool) : State := { tActive with extIn := [if b then 1#54 <<< 20 else 0#54] }

/-- A view of the next state, if there is one. -/
def view {α : Type} (f : State → α) : Answer → Option α
  | .next s => some (f s)
  | .fault _ => none
  | .refused _ => none

/-- The reason of a refusal, if there is one. -/
def refusal : Answer → Option Refusal
  | .next _ => none
  | .fault _ => none
  | .refused r => some r

/-- Every instruction ends with nothing in progress; the seven pins of `tActive` are driven. -/
theorem tActive_canRun : CanRun tActive := ⟨rfl, rfl⟩

theorem tActive_valid : tActive.cfg.valid = true := by decide

theorem tActive_driven : LcdDriven tActive := by unfold LcdDriven; decide

/-! ## WellFormed: each check refuses a term -/

theorem test_wf_set_order : Instr.wellFormed (.configure [11, 10] .output) = false := by decide
theorem test_wf_set_repeat : Instr.wellFormed (.configure [10, 10] .output) = false := by decide
theorem test_wf_set_pin : Instr.wellFormed (.configure [256] .input) = false := by decide
theorem test_wf_set_size : Instr.wellFormed (.configure (List.range 257) .input) = false := by decide +kernel
theorem test_wf_pin : Instr.wellFormed (.set 256 true) = false ∧ Instr.wellFormed (.read 256) = false := by decide
theorem test_wf_place : Instr.wellFormed (.fselPlace 256 1) = false ∧ Instr.wellFormed (.pinBit 256) = false := by decide
theorem test_wf_text_count : Instr.wellFormed (.writeText [] 256) = false ∧ Instr.wellFormed (.render [] 256) = false := by
  decide
theorem test_wf_accepts : Instr.wellFormed (.configure [9, 10, 255] .output) = true ∧ Instr.wellFormed (.set 255 true) = true ∧
    Instr.wellFormed (.writeText [0x41] 255) = true ∧ Instr.wellFormed (.writeReq []) = true := by decide

/-! ## Decoding: words written from 30_encoding.md R90 to R120 -/

-- Format OP: selectors 0 to 15, operands after them (log 9).
theorem test_decode_configure : decode ⟨.op, [0x00, 1, 3, 7, 8, 9]⟩ = .ok (.configure [7, 8, 9] .output, []) := by decide
theorem test_decode_set : decode ⟨.op, [0x01, 40, 0]⟩ = .ok (.set 40 false, []) := by decide
theorem test_decode_read : decode ⟨.op, [0x02, 53]⟩ = .ok (.read 53, []) := by decide
theorem test_decode_transmit : decode ⟨.op, [0x03, 0xA5, 0]⟩ = .ok (.transmit 0xA5 .command, []) := by decide
theorem test_decode_write_command : decode ⟨.op, [0x04, 0x01]⟩ = .ok (.writeCommand 0x01, []) := by decide
theorem test_decode_write_char : decode ⟨.op, [0x05, 0x41]⟩ = .ok (.writeChar 0x41, []) := by decide
theorem test_decode_init : decode ⟨.op, [0x06]⟩ = .ok (.init, []) := by decide
theorem test_decode_write_text : decode ⟨.op, [0x07, 1, 0x48, 0x69]⟩ = .ok (.writeText [0x48, 0x69] 1, []) := by decide
theorem test_decode_configure_all : decode ⟨.op, [0x08]⟩ = .ok (.configureAll, []) := by decide
theorem test_decode_led_set : decode ⟨.op, [0x09, 1]⟩ = .ok (.ledSet true, []) := by decide
theorem test_decode_button_read : decode ⟨.op, [0x0A]⟩ = .ok (.buttonRead, []) := by decide
theorem test_decode_render : decode ⟨.op, [0x0B, 2, 0x68, 0x69]⟩ = .ok (.render [0x68, 0x69] 2, []) := by decide
theorem test_decode_activate : decode ⟨.op, [0x0C, 0]⟩ = .ok (.activate false, []) := by decide
theorem test_decode_deactivate : decode ⟨.op, [0x0D]⟩ = .ok (.deactivate, []) := by decide
theorem test_decode_read_req : decode ⟨.op, [0x0E]⟩ = .ok (.readReq, []) := by decide
theorem test_decode_write_req : decode ⟨.op, [0x0F, 0x68, 0x69, 0x20, 0x39]⟩ =
    .ok (.writeReq [0x68, 0x69, 0x20, 0x39], []) := by decide

-- Format LCDW: bit 8 is the mode, bits 7:0 the byte (R100); the fixed bytes of R105 and R106.
theorem test_decode_lcd_command : decode ⟨.lcdw, [0xA5, 0x00, 0]⟩ = .ok (.lcdCommand 0xA5, []) := by decide
theorem test_decode_lcd_command_caller : decode ⟨.lcdw, [0x33, 0x00, 7]⟩ = .ok (.lcdCommand 0x33, []) := by decide
theorem test_decode_lcd_char : decode ⟨.lcdw, [0x68, 0x01, 0]⟩ = .ok (.lcdChar 0x68, []) := by decide
theorem test_decode_init_words : decode ⟨.lcdw, [0x33, 0, 0]⟩ = .ok (.init0, []) ∧
    decode ⟨.lcdw, [0x32, 0, 0]⟩ = .ok (.init1, []) ∧ decode ⟨.lcdw, [0x06, 0, 0]⟩ = .ok (.init2, []) ∧
    decode ⟨.lcdw, [0x0C, 0, 0]⟩ = .ok (.init3, []) ∧ decode ⟨.lcdw, [0x06, 0, 5]⟩ = .ok (.init4, []) ∧
    decode ⟨.lcdw, [0x01, 0, 0]⟩ = .ok (.init5, []) := by decide
theorem test_decode_notsent : decode ⟨.lcdw, [0x28, 0, 0]⟩ = .ok (.notSent28, []) := by decide

-- Format REGACC: the offset (R95, defaults of 00 R9).
theorem test_decode_fsel_registers : decode ⟨.regacc, [0x00, 0]⟩ = .ok (.gpfsel0 .read, []) ∧
    decode ⟨.regacc, [0x04, 0]⟩ = .ok (.gpfsel1 .read, []) ∧ decode ⟨.regacc, [0x08, 0]⟩ = .ok (.gpfsel2 .read, []) ∧
    decode ⟨.regacc, [0x0C, 0]⟩ = .ok (.gpfsel3 .read, []) ∧ decode ⟨.regacc, [0x10, 0]⟩ = .ok (.gpfsel4 .read, []) ∧
    decode ⟨.regacc, [0x14, 1, 0x78, 0x56, 0x34, 0x12]⟩ = .ok (.gpfsel5 (.write 0x12345678), []) := by decide
theorem test_decode_latch_registers : decode ⟨.regacc, [0x1C, 1, 0x00, 0x02, 0, 0]⟩ = .ok (.gpset0 (.write 0x200), []) ∧
    decode ⟨.regacc, [0x20, 1, 0x00, 0x01, 0, 0]⟩ = .ok (.gpset1 (.write 0x100), []) ∧
    decode ⟨.regacc, [0x28, 1, 0x80, 0, 0, 0]⟩ = .ok (.gpclr0 (.write 0x80), []) ∧
    decode ⟨.regacc, [0x2C, 1, 0, 0, 0x20, 0]⟩ = .ok (.gpclr1 (.write 0x200000), []) := by decide
theorem test_decode_level_registers : decode ⟨.regacc, [0x34, 0]⟩ = .ok (.gplev0 .read, []) ∧
    decode ⟨.regacc, [0x38, 0]⟩ = .ok (.gplev1 .read, []) := by decide

-- Formats FSELF, PINBIT, NIB, WIRE (R91 to R94, R103, R110, R111).
theorem test_decode_codes : decode ⟨.fself, [0, 0]⟩ = .ok (.fselInput, []) ∧ decode ⟨.fself, [1, 0]⟩ = .ok (.fselOutput, []) ∧
    decode ⟨.fself, [2, 0]⟩ = .ok (.fselAlt2, []) ∧ decode ⟨.fself, [3, 0]⟩ = .ok (.fselAlt3, []) ∧
    decode ⟨.fself, [4, 0]⟩ = .ok (.fselAlt4, []) ∧ decode ⟨.fself, [5, 0]⟩ = .ok (.fselAlt5, []) ∧
    decode ⟨.fself, [6, 0]⟩ = .ok (.fselAlt6, []) ∧ decode ⟨.fself, [7, 0]⟩ = .ok (.fselAlt7, []) := by decide
theorem test_decode_place : decode ⟨.fself, [1, 1, 53]⟩ = .ok (.fselPlace 53 1, []) := by decide
theorem test_decode_pin_bit : decode ⟨.pinbit, [40]⟩ = .ok (.pinBit 40, []) := by decide
theorem test_decode_latch_sample : decode ⟨.nib, []⟩ = .ok (.latchSample, []) := by decide
theorem test_decode_response :
    decode ⟨.wireResponse, [0x42, 0x75, 0x74, 0x74, 0x6F, 0x6E, 0x3A, 0x20, 0x30, 0x0A]⟩ =
      .ok (.wireReadResp false, []) := by decide
theorem test_decode_request : decode ⟨.wireRequest, [0x68, 0x69, 0x20, 0x32]⟩ =
    .ok (.wireWriteReq [0x68, 0x69, 0x20, 0x32], []) := by decide
theorem test_decode_rejects : decode ⟨.op, [0x10]⟩ = .error .reservedBits ∧ decode ⟨.regacc, [0x18, 0]⟩ = .error .badOffset ∧
    decode ⟨.lcdw, [0x41, 2, 0]⟩ = .error .reservedBits ∧ decode ⟨.lcdw, [0x41, 0, 1]⟩ = .error .badRole ∧
    decode ⟨.fself, [8, 0]⟩ = .error .reservedBits ∧ decode ⟨.op, []⟩ = .error .truncated := by decide
-- the opcode table's own words: rows ACTIVATE, LCD.CHAR, GPCLR0 and WIRE.READ_RESP
theorem test_table_words : decodeTableWord 4 0xC = some (.activate false) ∧ decodeTableWord 9 0x100 = some (.lcdChar 0) ∧
    decodeTableWord 8 0x28 = some (.gpclr0 .read) ∧
    decodeTableWord 80 0x427574746F6E3A20300A = some (.wireReadResp false) := by decide

/-! ## One step of each operation, against 95 -/

/-- V1: the four data pins, each holding 0b111. -/
theorem test_configure_v1 : view (fun s => (s.trace, s.dev.fsel[1]))
    (exec (.configure [10, 11, 12, 13] .output) (tDevice #v[0, 0x00249FFF, 0, 0, 0, 0] #v[0, 0])) =
      some ([.bar, .rd 0x04 0x00249FFF, .wr 0x04 0x00249249, .bar], 0x00249249) := by decide +kernel

/-- V6: input over an alternate code, bits 31:30 kept. -/
theorem test_configure_v6 : view (fun s => s.trace)
    (exec (.configure [9] .input) (tDevice #v[0xF8000001, 0, 0, 0, 0, 0] #v[0, 0])) =
      some [.bar, .rd 0x00 0xF8000001, .wr 0x00 0xC0000001, .bar] := by decide +kernel

/-- V8: E falls, which is a latch event (0,0,0). -/
theorem test_set_v8 : view (fun s => (s.trace, s.dev.outl[0], s.latched)) (exec (.set 9 false) (tLatch 0x200)) =
    some ([.bar, .wr 0x28 0x00000200, .bar], 0, [⟨false, false, 0⟩]) := by decide +kernel

/-- V9: bank 1. -/
theorem test_set_v9 : view (fun s => (s.trace, s.dev.outl[1])) (exec (.set 40 true) tActive) =
    some ([.bar, .wr 0x20 0x00000100, .bar], 0x00000100) := by decide +kernel

/-- V8: the button bit. -/
theorem test_read_v8 : view (fun s => (s.trace, s.result)) (exec (.read 20) (tButton true)) =
    some ([.bar, .rd 0x34 0x00100000], .level true) := by decide +kernel

/-- V9b: an input pin reads its external level whatever its latch holds. -/
theorem test_read_v9b : view (fun s => s.result) (exec (.read 20) { tLatch 0x00100000 with extIn := [0] }) =
    some (.level false) := by decide +kernel

/-- V10: the whole trace of `TRANSMIT(0x41, Character)`, and what it latches. -/
theorem test_transmit_v10 : view (fun s => (s.trace, s.latched, s.dev.outl[0])) (exec (.transmit 0x41 .character) tActive) =
    some ([.bar, .wr 0x1C 0x80, .bar, .bar, .wr 0x28 0x400, .bar, .bar, .wr 0x28 0x800, .bar,
      .bar, .wr 0x28 0x1000, .bar, .bar, .wr 0x28 0x2000, .bar, .bar, .wr 0x1C 0x1000, .bar,
      .dly 500, .bar, .wr 0x1C 0x200, .bar, .dly 500, .bar, .wr 0x28 0x200, .bar, .dly 500,
      .bar, .wr 0x28 0x400, .bar, .bar, .wr 0x28 0x800, .bar, .bar, .wr 0x28 0x1000, .bar, .bar, .wr 0x28 0x2000, .bar,
      .bar, .wr 0x1C 0x400, .bar,
      .dly 500, .bar, .wr 0x1C 0x200, .bar, .dly 500, .bar, .wr 0x28 0x200, .bar, .dly 500],
      [⟨true, false, 4⟩, ⟨true, false, 1⟩], 0x480) := by decide +kernel

/-- V15: E high at the start changes nothing of what is latched. -/
theorem test_transmit_v15 : view (fun s => (s.trace.length, s.latched)) (exec (.transmit 0x41 .character) (tLatch 0x200)) =
    some (51, [⟨true, false, 4⟩, ⟨true, false, 1⟩]) := by decide +kernel

/-- V13 as `WRITE_COMMAND(0xA5)`. -/
theorem test_write_command_v13 : view (fun s => (s.trace.length, s.latched, s.dev.outl[0])) (exec (.writeCommand 0xA5) tActive) =
    some (57, [⟨false, false, 10⟩, ⟨false, false, 5⟩], 0x1400) := by decide +kernel

/-- V12 as `WRITE_CHAR(0xFF)`. -/
theorem test_write_char_v12 : view (fun s => (s.trace.length, s.latched, s.dev.outl[0])) (exec (.writeChar 0xFF) tActive) =
    some (69, [⟨true, false, 15⟩, ⟨true, false, 15⟩], 0x3C80) := by decide +kernel

/-- V20: the twelve nibbles, the number of events, the levels left. -/
theorem test_init_v20 : view (fun s => (s.trace.length, s.latched.map (·.nibble), s.dev.outl[0], s.ready)) (exec .init tActive) =
    some (313, [3, 3, 3, 2, 0, 6, 0, 12, 0, 6, 0, 1], 0x400, true) := by decide +kernel

/-- V21: `WRITE_TEXT("Hi", 2)`. -/
theorem test_write_text_v21 : view (fun s => (s.trace.length, s.latched, s.dev.outl[0]))
    (exec (.writeText [0x48, 0x69] 2) tActive) =
      some (108, [⟨true, false, 4⟩, ⟨true, false, 8⟩, ⟨true, false, 6⟩, ⟨true, false, 9⟩], 0x2480) := by decide +kernel

/-- V23: a count above the length is refused, a count of 0 sends nothing. -/
theorem test_write_text_v23 : refusal (exec (.writeText [0x68, 0x69] 3) tActive) = some .badOperand ∧
    view (fun s => s.trace) (exec (.writeText [0x68, 0x69] 0) tActive) = some [] := by decide +kernel

/-- V32 from all-zero function selects. -/
theorem test_configure_all_v32 : view (fun s => s.trace) (exec .configureAll (tDevice #v[0, 0, 0, 0, 0, 0] #v[0, 0])) =
    some [.bar, .rd 0x00 0, .wr 0x00 0x09200000, .rd 0x04 0, .wr 0x04 0x249, .rd 0x08 0, .wr 0x08 0x8, .bar, .bar,
      .rd 0x08 0x8, .wr 0x08 0x8, .bar] := by decide +kernel

/-- V32 from the second start state. -/
theorem test_configure_all_v32_second : view (fun s => s.dev.fsel)
    (exec .configureAll (tDevice #v[0x12345678, 0x00249FFF, 0x0000027F, 0, 0, 0] #v[0, 0])) =
      some #v[0x09345678, 0x00249249, 0x00000248, 0, 0, 0] := by decide +kernel

/-- V30. -/
theorem test_led_set_v30 : view (fun s => s.trace) (exec (.ledSet true) tActive) = some [.bar, .wr 0x1C 0x00200000, .bar] ∧
    view (fun s => s.trace) (exec (.ledSet false) tActive) = some [.bar, .wr 0x28 0x00200000, .bar] := by decide +kernel

/-- V31: the LED's own level is in the word and is ignored. -/
theorem test_button_read_v31 : view (fun s => (s.trace, s.result))
    (exec .buttonRead { tLatch 0x00200000 with extIn := [1#54 <<< 20] }) =
      some ([.bar, .rd 0x34 0x00300000], .level true) := by decide +kernel

/-- V34: `RENDER("", 0)`. -/
theorem test_render_v34 : view (fun s => (s.trace.length, s.latched.length, s.dev.outl[0])) (exec (.render [] 0) tActive) =
    some (326, 12, 0x400) := by decide +kernel

/-- V42. -/
theorem test_activate_v42 : view (fun s => (s.trace.length, s.life, s.result)) (exec (.activate true) State.reset) =
    some (12, .active, .ok) ∧
    view (fun s => (s.trace, s.life, s.result)) (exec (.activate false) State.reset) =
      some ([], .inactive, .error .fatalMappingError) := by decide +kernel

/-- V42: `ACTIVATE` while Active. -/
theorem test_activate_twice : refusal (exec (.activate true) tActive) = some .badLifecycle := by decide +kernel

/-- V42: `DEACTIVATE` appends no event. -/
theorem test_deactivate_v42 : view (fun s => (s.trace, s.life, s.ready)) (exec .deactivate { tActive with ready := true }) =
    some ([], .inactive, false) := by decide +kernel

/-- V41, the button bit set, with the LED high as in P2; nothing is kept of the response (R33). -/
theorem test_read_req_v41 : view (fun s => (s.trace, s.result, s.respLen))
    (exec .readReq { tLatch 0x00200000 with extIn := [1#54 <<< 20] }) =
      some ([.bar, .rd 0x34 0x00300000], .bytes [0x42, 0x75, 0x74, 0x74, 0x6F, 0x6E, 0x3A, 0x20, 0x31, 0x0A], 0) ∧
    (storeResponse true tActive).respLen = 10 := by
  decide +kernel

/-- V42: a request while Inactive. -/
theorem test_read_req_inactive : refusal (exec .readReq State.reset) = some .useWhileUnmapped := by decide

/-- V40 row 15: 33 bytes, cut to 32, `"ABCDEFGHIJKLMNOP"` with length 1 (only the text accepted is asked for here). -/
theorem test_write_req_v40_cut : acceptedText
    ([0x41, 0x42, 0x43, 0x44, 0x45, 0x46, 0x47, 0x48, 0x49, 0x4A, 0x4B, 0x4C, 0x4D, 0x4E, 0x4F, 0x50] ++
      List.replicate 15 0x20 ++ [0x31, 0x36]) = some [0x41] := by decide +kernel

/-- V40 row 2: `"hi 9"` appends one diagnostic and returns 4. -/
theorem test_write_req_v40_rejected : view (fun s => (s.trace, s.logCnt, s.result, s.ready))
    (exec (.writeReq [0x68, 0x69, 0x20, 0x39]) tActive) = some ([.log], 1, .count 4, false) := by decide +kernel

/-- V50: bus words 0x0A5 and 0x1FF. -/
theorem test_bus_words_v50 : view (fun s => s.latched) (exec (.lcdCommand 0xA5) tActive) =
    some [⟨false, false, 10⟩, ⟨false, false, 5⟩] ∧
    view (fun s => s.latched) (exec (.lcdChar 0xFF) tActive) = some [⟨true, false, 15⟩, ⟨true, false, 15⟩] := by
  decide +kernel

/-- V20: the six bytes of `INIT` one at a time, by the number of events and the nibbles. -/
theorem test_init_words_v20 :
    [Instr.init0, .init1, .init2, .init3, .init4, .init5].map
      (fun i => view (fun s => (s.trace.length, s.latched.map (·.nibble))) (exec i tActive)) =
    [some (57, [3, 3]), some (54, [3, 2]), some (51, [0, 6]), some (51, [0, 12]), some (51, [0, 6]), some (48, [0, 1])] := by
  decide +kernel

/-- R107: a caller's 0x28 is sent unchanged. -/
theorem test_notsent_r107 : view (fun s => s.latched) (exec .notSent28 tActive) =
    some [⟨false, false, 2⟩, ⟨false, false, 8⟩] := by decide +kernel

/-- R69: a function-select register is read and written whole. -/
theorem test_fsel_access : view (fun s => (s.trace, s.result)) (exec (.gpfsel1 .read) tActive) =
    some ([.rd 0x04 0x249], .word 0x249) ∧
    [exec (.gpfsel0 (.write 0xFFFFFFFF)) tActive, exec (.gpfsel2 (.write 0xFFFFFFFF)) tActive,
      exec (.gpfsel3 (.write 0xFFFFFFFF)) tActive, exec (.gpfsel4 (.write 0xFFFFFFFF)) tActive,
      exec (.gpfsel5 (.write 0xFFFFFFFF)) tActive].map (view (fun s => s.trace)) =
    [some [.wr 0x00 0xFFFFFFFF], some [.wr 0x08 0xFFFFFFFF], some [.wr 0x0C 0xFFFFFFFF], some [.wr 0x10 0xFFFFFFFF],
      some [.wr 0x14 0xFFFFFFFF]] := by decide +kernel

/-- R66, R67: zeros in a set or clear word change nothing; bits 31:22 of bank 1 stay 0. -/
theorem test_latch_access : [exec (.gpset0 (.write 0x00F0)) (tLatch 0x0F0F), exec (.gpclr0 (.write 0x000F)) (tLatch 0x0F0F)].map
      (view (fun s => s.dev.outl[0])) = [some 0x0FFF, some 0x0F00] ∧
    [exec (.gpset1 (.write 0xFFFFFFFF)) tActive, exec (.gpclr1 (.write 0xFFFFFFFF)) tActive].map
      (view (fun s => s.dev.outl[1])) = [some 0x003FFFFF, some 0] := by decide +kernel

/-- U5, R290: a direction a register does not have. -/
theorem test_access_direction : [exec (.gpset0 .read) tActive, exec (.gpclr1 .read) tActive,
    exec (.gplev0 (.write 0)) tActive, exec (.gplev1 (.write 0)) tActive].map refusal =
      [some .badAccess, some .badAccess, some .badAccess, some .badAccess] := by decide +kernel

/-- R68: the level word of bank 0, and the button pin's bank; bank 1 has a level only for pins 32 to 53. -/
theorem test_level_access : view (fun s => s.result) (exec (.gplev0 .read) (tButton true)) = some (.word 0x00100000) ∧
    view (fun s => s.trace.length) (exec (.gplev1 .read) tActive) = some 1 := by decide +kernel

/-- R91, R93: the codes. -/
theorem test_codes : [Instr.fselInput, .fselOutput, .fselAlt2, .fselAlt3, .fselAlt4, .fselAlt5, .fselAlt6, .fselAlt7].map
    (fun i => view (fun s => s.result) (exec i tActive)) =
      [some (.function .input), some (.function .output)] ++ List.replicate 6 (some (.function .alternate)) := by decide +kernel

/-- V5: pin 53 is in register 5 at shift 9. -/
theorem test_place_v5 : view (fun s => s.result) (exec (.fselPlace 53 1) tActive) =
    some (.placement 5 0x00000E00 0x00000200) := by decide +kernel

/-- V9: pin 40 is bit 8 of bank 1. -/
theorem test_pin_bit_v9 : view (fun s => s.result) (exec (.pinBit 40) tActive) = some (.pinBit 1 0x100) := by decide +kernel

/-- R103: RS and D6 high, as after the first half of V10. -/
theorem test_latch_sample : view (fun s => s.result) (exec .latchSample (tLatch 0x1080)) = some (.sample 0b100100#6) := by
  decide +kernel

/-- R110. -/
theorem test_wire_response : view (fun s => s.result) (exec (.wireReadResp false) tActive) =
    some (.bytes [0x42, 0x75, 0x74, 0x74, 0x6F, 0x6E, 0x3A, 0x20, 0x30, 0x0A]) := by decide +kernel

/-- V40 rows 14 and 16: two spaces, `hi`, a tab, `2`; and `hi`, 0x00, `2`. -/
theorem test_wire_request : view (fun s => s.result) (exec (.wireWriteReq [0x20, 0x20, 0x68, 0x69, 0x09, 0x32]) tActive) =
    some (.request (some ([0x68, 0x69], 2))) ∧
    view (fun s => s.result) (exec (.wireWriteReq [0x68, 0x69, 0x00, 0x32]) tActive) = some (.request none) := by
  decide +kernel

/-- V9a: a pin above 53. -/
theorem test_invalid_pin : [exec (.set 54 true) tActive, exec (.read 60) tActive, exec (.configure [3, 99] .output) tActive].map
    refusal = [some .invalidPin, some .invalidPin, some .invalidPin] := by decide +kernel

/-- A step of the host's interface: the table's `LCD.CHAR` word at reset is decoded and refused by `LIFE` (R287). -/
theorem test_step_fetch : refusal (step (State.reset.withFetchWord 9 0x141)) = some .useWhileUnmapped ∧
    view (fun s => s.result) (step (State.reset.withFetchWord 4 0xC)) = some (.error .fatalMappingError) := by decide +kernel

/-- R122, R95, R293: a register access asked for from outside, in the table and outside it, is refused after `LIFE` and `BUSY`. -/
theorem test_port_accesses : [[0x1C, 1, 0, 2, 0, 0], [0x18, 0]].map
    (fun bs : List Byte => [tActive, State.reset, { tActive with busy := true }].map
      (fun s => refusal (step (present ⟨.regacc, bs⟩ s)))) =
    [[some .badAccess, some .useWhileUnmapped, some .busy], [some .badAccess, some .useWhileUnmapped, some .busy]] := by
  decide +kernel

/-- R31, R288: `SET(9, true)` presented in the middle of a transfer is refused, and `DEACTIVATE` by its own name (R287). -/
theorem test_port_busy : [[0x01, 9, 1], [0x0D]].map (fun bs : List Byte => refusal (step (present ⟨.op, bs⟩
    { tActive with busy := true, seq := ⟨.transmit, .none, .setMode, 0⟩ }))) = [some .busy, some .badLifecycle] := by
  decide +kernel

/-- R33: the second request's buffer holds no byte of an earlier one, and at position level it is there while it is in progress. -/
theorem test_request_buffer : view (fun s => (s.req[0], s.req[4], s.reqLen))
    (launch (.writeReq [0x68, 0x69, 0x20, 0x32]) { tActive with req := Vector.replicate 32 7, reqLen := 32 }) =
      some (0x68, 0, 4) := by decide +kernel

/-- 70 R335, 44 R250: the count of an accepted request is there when the operation is over, not before (`"A 0"` renders no byte). -/
theorem test_count_when_over : view (fun s => (s.busy, s.result)) (launch (.writeReq [0x41, 0x20, 0x30]) tActive) = some (true, .empty) ∧
    view (fun s => (s.busy, s.result, s.reqLen, s.arg)) (microStep
      { tActive with
        busy := true, seq := ⟨.writeReq, .settle, .idle, 0⟩, arg := [0x41, 0x20, 0x30], reqLen := 3 }) =
      some (false, .count 3, 0, []) := by decide +kernel

/-- 42 R190: `READY` is 0 from the start of `INIT` and 1 after its closing delay. -/
theorem test_init_clears_ready : view (fun s => (s.ready, s.initIdx)) (launch .init { tActive with ready := true }) = some (false, 0) ∧
    view (fun s => (s.ready, s.busy)) (microStep { tActive with busy := true, seq := ⟨.init, .postClear, .idle, 0⟩, initIdx := 6 }) =
      some (true, false) := by decide +kernel

/-- 41 R162: the first three positions of `TRANSMIT(0x41, Character)` set RS and clear D4 and D5. -/
theorem test_positions : view (fun s => s.seq) (launch (.transmit 0x41 .character) tActive) =
    some ⟨.transmit, .none, .setMode, 0⟩ ∧
    (match launch (.transmit 0x41 .character) tActive with
      | .next s => view (fun t => (t.trace, t.seq.st, t.seq.u)) (runPositions 3 s)
      | _ => none) =
    some ([.bar, .wr 0x1C 0x80, .bar, .bar, .wr 0x28 0x400, .bar, .bar, .wr 0x28 0x800, .bar], .loadHighNibble, 2) := by
  decide +kernel

/-! ## Witnesses: states and operands that meet the hypotheses of each obligation -/

/-- In the middle of `TRANSMIT(0x41, Command)`: the last position of the high nibble's load. -/
def tBusy : State := { tActive with busy := true, seq := ⟨.transmit, .none, .loadHighNibble, 7⟩, byte := 0x41 }

/-- `SET(9, true)` presented to `tActive`. -/
def tPresented : State := { tActive with port := [some ⟨.op, [0x01, 9, 1]⟩] }

theorem tBusy_inv : Inv tBusy where
  cfgValid := by decide
  pinlessBits := by decide
  cntBound := by decide
  idxBound := by decide
  initIdxBound := by decide
  reqLenBound := by decide
  respLenBound := by decide
  requestDropped := by decide
  requestHeld := by decide
  responseDropped := by decide
  readyActive := by decide
  initNotReady := by decide
  resultAwaited := by decide
  busyPosition := by decide
  idlePosition := by decide

theorem tPresented_inv : Inv tPresented where
  cfgValid := by decide
  pinlessBits := by decide
  cntBound := by decide
  idxBound := by decide
  initIdxBound := by decide
  reqLenBound := by decide
  respLenBound := by decide
  requestDropped := by decide
  requestHeld := by decide
  responseDropped := by decide
  readyActive := by decide
  initNotReady := by decide
  resultAwaited := by decide
  busyPosition := by decide
  idlePosition := by decide

theorem witness_StepKeepsInvariant : (Inv tBusy ∧ ∃ t, step tBusy = .next t) ∧ (Inv tPresented ∧ ∃ t, step tPresented = .next t) :=
  ⟨⟨tBusy_inv, _, rfl⟩, ⟨tPresented_inv, _, rfl⟩⟩
theorem witness_FaultsOnlyOnUndecodable : Inv tBusy ∧ (present ⟨.op, [0x10]⟩ tBusy).port = some ⟨.op, [0x10]⟩ :: tBusy.port ∧
    decode ⟨.op, [0x10]⟩ = .error .reservedBits ∧ step (present ⟨.op, [0x10]⟩ tBusy) = .fault (.undecodable .reservedBits) :=
  ⟨tBusy_inv, rfl, by decide, rfl⟩
theorem witness_StepAccountsForTrace : tPresented.cfg.valid = true ∧ ∃ t, step tPresented = .next t := ⟨by decide, _, rfl⟩
theorem witness_StepKeepsParameters : ∃ t, step tBusy = .next t := ⟨_, rfl⟩
theorem witness_StepRunsDecodedInstruction :
    (tPresented.port = some ⟨.op, [0x01, 9, 1]⟩ :: [] ∧ decode ⟨.op, [0x01, 9, 1]⟩ = .ok (.set 9 true, []) ∧
      isAccess (.set 9 true) = false ∧ tPresented.grain = .operation ∧ { tPresented with grain := .position }.grain = .position) ∧
    ((present ⟨.regacc, [0x34, 0]⟩ tActive).port = some ⟨.regacc, [0x34, 0]⟩ :: [] ∧
      decode ⟨.regacc, [0x34, 0]⟩ = .ok (.gplev0 .read, []) ∧ isAccess (.gplev0 .read) = true) ∧
    (decode ⟨.regacc, [0x18, 0]⟩ = .error .badOffset ∧ decode ⟨.op, [0x10]⟩ = .error .reservedBits) ∧
    ((present ⟨.op, [0x06]⟩ tBusy).busy = true ∧ (present ⟨.op, [0x06]⟩ tBusy).port = some ⟨.op, [0x06]⟩ :: []) ∧
    (tBusy.port = [] ∧ tBusy.busy = true) ∧ ({ tActive with port := [none] }.port.head? = some none ∧ tActive.busy = false) := by
  decide
theorem witness_DecodeEncodeAgree : (Instr.configure [0, 53, 255] .output).wellFormed = true ∧
    (Instr.gpset1 (.write 0xFFFFFFFF)).wellFormed = true ∧ (Instr.writeText [0x00] 255).wellFormed = true := by decide
theorem witness_DecodedIsWellFormed : decode ⟨.op, [0x00, 1, 2, 0, 255]⟩ = .ok (.configure [0, 255] .output, []) := by decide

/-- For every statement whose only hypotheses are `CanRun` and the parameters': `SetEffect`, `ReadEffect`, `InitEffect`,
`ConfigureAllEffect`, `DeactivateEffect`, `ReadReqEffect`, `WriteReqReturnsPresentedLength`, `DocumentRequests`, `InitTotals`,
`FunctionCodesEvaluated`, `LatchSampleEvaluated`, `WireRowsEvaluated`, and the first clause of `TransmitTakes27Positions`. -/
theorem witness_CanRun : CanRun tActive ∧ tActive.cfg.valid = true := ⟨tActive_canRun, tActive_valid⟩

/-- For every statement whose only hypotheses are `CanRun`, the parameters' and driven pins: `LatchTimesOfByte`, and the clause of `InitTotals`
on the latch events. -/
theorem witness_LcdDriven : CanRun tActive ∧ tActive.cfg.valid = true ∧ LcdDriven tActive :=
  ⟨tActive_canRun, tActive_valid, tActive_driven⟩

theorem witness_ConfigureEffect : CanRun tActive ∧ pinsOf? [0, 9, 10, 53] = some [0, 9, 10, 53] := ⟨tActive_canRun, by decide⟩
theorem witness_ConfigureWritesOnlyItsFields :
    pinsOf? [0, 53] = some [0, 53] ∧ ∃ t, exec (.configure [0, 53] .input) tActive = .next t := ⟨by decide, _, rfl⟩
theorem witness_ReadReturnsLevel :
    ((∃ t, exec (.read 9) tActive = .next t) ∧ pinFunction tActive.cfg tActive.dev 9 = .output) ∧
    ((∃ t, exec (.read 53) tActive = .next t) ∧ pinFunction tActive.cfg tActive.dev 53 = .input) ∧
    (∃ t, exec (.read 0) (tDevice #v[7, 0, 0, 0, 0, 0] #v[0, 0]) = .next t) ∧
      pinFunction tActive.cfg ⟨#v[7, 0, 0, 0, 0, 0], #v[0, 0]⟩ 0 = .alternate :=
  ⟨⟨⟨_, rfl⟩, by decide⟩, ⟨⟨_, rfl⟩, by decide⟩, ⟨_, rfl⟩, by decide⟩
theorem witness_SetThenReadReturnsLevel :
    (∃ t, exec (.set 9 true) tActive = .next t) ∧ pinFunction tActive.cfg tActive.dev 9 = .output := ⟨⟨_, rfl⟩, by decide⟩
theorem witness_FunctionSelectAccess : CanRun tActive ∧ (Instr.gpfsel5, (5 : Fin 6)) ∈ fselAccessRows ∧
    fselReg 53 = 5 ∧ functionOf tActive.cfg ((0x200 : Reg32).extractLsb' (3 * (53 % 10)) 3) = .output :=
  ⟨tActive_canRun, by simp [fselAccessRows], by decide, by decide⟩
theorem witness_SetRegisterWrite : CanRun tActive ∧ (Instr.gpset1, (1 : Fin 2)) ∈ setAccessRows :=
  ⟨tActive_canRun, by simp [setAccessRows]⟩
theorem witness_ClearRegisterWrite : CanRun (tLatch 0x200) ∧ (Instr.gpclr0, (0 : Fin 2)) ∈ clrAccessRows ∧
    pad tActive.cfg (tLatch 0x200).dev tActive.cfg.pins.e = some true ∧ bankOf tActive.cfg.pins.e = 0 ∧
    (0x200 : Reg32).getLsbD (tActive.cfg.pins.e.val % 32) = true :=
  ⟨⟨rfl, rfl⟩, by simp [clrAccessRows], by decide, by decide, by decide⟩
theorem witness_LevelRegisterRead : CanRun tActive ∧ (Instr.gplev1, (1 : Fin 2)) ∈ levAccessRows ∧ bankOf 53 = 1 ∧
    (22 < 32 ∧ 54 ≤ 32 * 1 + 22) := ⟨tActive_canRun, by simp [levAccessRows], by decide, by decide⟩
theorem witness_BadAccessRefused : (0x18 ∉ tActive.cfg.offsets) ∧ (2 ≠ 4) ∧ tActive.cfg.valid = true ∧ CanRun tActive ∧
    isOperation (.set 54 true) = true := ⟨by decide, by decide, tActive_valid, tActive_canRun, rfl⟩
theorem witness_TransmitEffect : State.reset.life = .inactive ∧ tActive.cfg.valid = true ∧ CanRun tActive :=
  ⟨rfl, tActive_valid, tActive_canRun⟩
theorem witness_TransmitLatchesNibbles : tActive.cfg.valid = true ∧ CanRun tActive ∧ LcdDriven tActive ∧
    latchBit tActive.dev tActive.cfg.pins.rw = false := ⟨tActive_valid, tActive_canRun, tActive_driven, by decide⟩
theorem witness_BusWordsAreTransmits : CanRun tActive ∧ (Instr.init4, (0x06 : Byte)) ∈ commandRows 0 :=
  ⟨tActive_canRun, by simp [commandRows]⟩
theorem witness_WriteTextEffect : tActive.cfg.valid = true ∧ CanRun tActive ∧
    16 ≤ (List.replicate 16 (0x41 : Byte)).length ∧ 16 ≤ 16 ∧ 0 ≤ ([] : List Byte).length := 
  ⟨tActive_valid, tActive_canRun, by decide, by decide, by decide⟩
theorem witness_WriteTextSpellsBytes : tActive.cfg.valid = true ∧ LcdDriven tActive ∧
    ∃ t, exec (.writeText [0x48, 0x69] 2) tActive = .next t := ⟨tActive_valid, tActive_driven, _, rfl⟩
theorem witness_LedSetEffect : CanRun tActive ∧ tActive.cfg.valid = true ∧
    (∃ t, exec (.writeReq [0x68, 0x69]) tActive = .next t) ∧ (∃ t, exec .readReq tActive = .next t) :=
  ⟨tActive_canRun, tActive_valid, ⟨_, rfl⟩, ⟨_, rfl⟩⟩
theorem witness_ButtonReadEffect : CanRun tActive ∧ pinFunction tActive.cfg tActive.dev tActive.cfg.pins.button = .input :=
  ⟨tActive_canRun, by decide⟩
theorem witness_RenderEffect : tActive.cfg.valid = true ∧ CanRun tActive ∧ 1 ≤ ([0x41] : List Byte).length ∧ 1 ≤ 16 :=
  ⟨tActive_valid, tActive_canRun, by decide, by decide⟩
theorem witness_RenderTotals : tActive.cfg.valid = true ∧ CanRun tActive ∧
    16 ≤ (List.replicate 17 (0x41 : Byte)).length ∧ 16 ≤ 16 := ⟨tActive_valid, tActive_canRun, by decide, by decide⟩
theorem witness_SequencesKeepOtherLatches : tActive.cfg.valid = true ∧ (∃ t, exec .init tActive = .next t) ∧
    (∃ t, exec (.writeText [0x41] 1) tActive = .next t) ∧ (∃ t, exec (.render [0x41] 1) tActive = .next t) ∧
    (∃ t, exec (.writeReq [0x41, 0x20, 0x31]) tActive = .next t) ∧
    (21 : Pin) ∉ [tActive.cfg.pins.rs, tActive.cfg.pins.e, tActive.cfg.pins.d4, tActive.cfg.pins.d5, tActive.cfg.pins.d6,
      tActive.cfg.pins.d7] := ⟨tActive_valid, ⟨_, rfl⟩, ⟨_, rfl⟩, ⟨_, rfl⟩, ⟨_, rfl⟩, by decide⟩
theorem witness_ActivateEffect : tActive.life = .active ∧
    (State.reset.cfg.valid = true ∧ State.reset.life = .inactive ∧ State.reset.busy = false) := by decide
theorem witness_ValuesAfterLifecycle : State.reset.cfg.valid = true ∧ (∃ t, exec (.activate true) State.reset = .next t) ∧
    (∃ t, exec (.activate false) State.reset = .next t) ∧ (∃ t, exec .deactivate tActive = .next t) ∧
    (tActive.cfg.pins.led ∈ tActive.cfg.pins.outputs) := ⟨by decide, ⟨_, rfl⟩, ⟨_, rfl⟩, ⟨_, rfl⟩, by decide⟩
theorem witness_WriteReqAccepted : tActive.cfg.valid = true ∧ CanRun tActive ∧
    acceptedText [0x68, 0x65, 0x6C, 0x6C, 0x6F, 0x20, 0x35] = some [0x68, 0x65, 0x6C, 0x6C, 0x6F] :=
  ⟨tActive_valid, tActive_canRun, by decide +kernel⟩
theorem witness_WriteReqRejected : CanRun tActive ∧ acceptedText [0x68, 0x69, 0x20, 0x39] = none :=
  ⟨tActive_canRun, by decide +kernel⟩
theorem witness_RequestGrammar : RequestForm [0x20, 0x68, 0x69, 0x09, 0x30, 0x32, 0x0A] [0x68, 0x69] [0x30, 0x32] :=
  ⟨[0x20], [0x09], [0x0A], by decide⟩
theorem witness_RequestCut : CanRun tActive ∧ acceptedText [0x68, 0x69] = none ∧
    acceptedText [0x68, 0x69, 0x20, 0x32, 0x00, 0x6A] = some [0x68, 0x69] := ⟨tActive_canRun, by decide +kernel, by decide +kernel⟩
theorem witness_FunctionCodesEvaluated : CanRun { tActive with cfg := { Config.default with fselOutput := 7 } } ∧
    { Config.default with fselOutput := 7 }.valid = true := ⟨⟨rfl, rfl⟩, by decide⟩
theorem witness_PlacementAndPinBitEvaluated : CanRun tActive ∧ 54 ≤ 54 ∧ (0 : Pin).val < 54 ∧ (53 : Pin).val < 54 :=
  ⟨tActive_canRun, by decide⟩
theorem witness_LatchSampleEvaluated : CanRun (tDevice #v[0, 0, 0, 0, 0, 0] #v[0, 0]) ∧
    pinFunction tActive.cfg tActive.dev tActive.cfg.pins.rs = .output := ⟨⟨rfl, rfl⟩, by decide⟩
theorem witness_OnlyLifecycleChangesLife : (∃ t, exec .deactivate tActive = .next t) ∧
    (∃ t, exec (.activate true) State.reset = .next t) ∧ State.reset.life = .inactive ∧ isOperation .readReq = true ∧
    (∀ ok : Bool, Instr.readReq ≠ .activate ok) ∧ Instr.readReq ≠ .deactivate :=
  ⟨⟨_, rfl⟩, ⟨_, rfl⟩, rfl, rfl, by simp, by simp⟩
theorem witness_ChecksInOrder : (State.reset.life = .inactive ∧ needsActive (.gplev0 .read) = true) ∧
    (tBusy.life = .active ∧ tBusy.busy = true) ∧
    ({ tBusy with life := .inactive }.life = .inactive ∧ { tBusy with life := .inactive }.busy = true) := by decide
theorem witness_OperandsRefused : CanRun tActive ∧ 54 ≤ 54 ∧ (∃ p ∈ [3, 54], 54 ≤ p) ∧ ([0x68] : List Byte).length < 2 ∧
    16 < 17 ∧ (isOperation (.set 54 true) = true ∧ exec (.set 54 true) tActive = .refused .invalidPin) ∧
    (isOperation (.render [] 1) = true ∧ exec (.render [] 1) tActive = .refused .badOperand) :=
  ⟨tActive_canRun, by decide, by decide, by decide, by decide, ⟨rfl, rfl⟩, ⟨rfl, rfl⟩⟩
theorem witness_FatalMappingErrorOnlyFromActivate : State.reset.life = .inactive ∧ State.reset.busy = false ∧
    ∃ t, exec (.activate false) State.reset = .next t ∧ t.result = .error .fatalMappingError := ⟨rfl, rfl, _, rfl, rfl⟩
theorem witness_RwLatchNeverWritten : tActive.cfg.valid = true ∧ (∃ t, exec (.transmit 0x41 .command) tActive = .next t) ∧
    (∀ lvl : Bool, Instr.transmit 0x41 .command ≠ .set tActive.cfg.pins.rw.val lvl) ∧
    (∀ (v : Reg32), ∀ r ∈ setAccessRows ++ clrAccessRows, Instr.transmit 0x41 .command ≠ r.1 (.write v)) :=
  ⟨tActive_valid, ⟨_, rfl⟩, by simp, by simp [setAccessRows, clrAccessRows]⟩
theorem witness_ForeignPinsKept : tActive.cfg.valid = true ∧ (∃ t, exec .configureAll tActive = .next t) ∧
    (53 : Pin) ∉ tActive.cfg.pins.all ∧ (∀ (pins : List Nat) (dir : PinDirection), Instr.configureAll ≠ .configure pins dir) ∧
    (∀ (q : Nat) (lvl : Bool), Instr.configureAll ≠ .set q lvl) ∧
    (∀ (v : Reg32), ∀ r ∈ fselAccessRows, Instr.configureAll ≠ r.1 (.write v)) ∧
    (∀ (v : Reg32), ∀ r ∈ setAccessRows ++ clrAccessRows, Instr.configureAll ≠ r.1 (.write v)) :=
  ⟨tActive_valid, ⟨_, rfl⟩, by decide, by simp, by simp, by simp [fselAccessRows], by simp [setAccessRows, clrAccessRows]⟩
theorem witness_ReadyWrittenOnlyByInitAndLifecycle : ∃ t, exec .init tActive = .next t ∧ t.ready ≠ tActive.ready :=
  ⟨_, rfl, by decide⟩
theorem witness_ExternalLevelsReachOnlyReads : readsLevels (.transmit 0x41 .command) = false := rfl
theorem witness_PositionsAgreeWithOperations : (∃ t, exec (.render [0x41] 1) tActive = .next t) ∧
    exec (.render [0x41] 1) State.reset = .refused .useWhileUnmapped := ⟨⟨_, rfl⟩, rfl⟩

/-- The last position of a lone `WRITE_CHAR`. -/
def tByteEnd : State := { tBusy with seq := ⟨.writeChar, .none, .latchLow, 4⟩ }

/-- The last position of the byte of index `k` of `INIT`, which sends the byte 0x41 here. -/
def tInitEnd (k : Nat) : State :=
  { tActive with busy := true, seq := ⟨.init, .byte k, .latchLow, 4⟩, byte := 0x41, initIdx := k }

/-- The last position of the byte of index `k` of a text of two bytes inside `RENDER`. -/
def tTextEnd (k : Nat) : State :=
  { tActive with busy := true, seq := ⟨.render, .text, .latchLow, 4⟩, byte := 0x41, mode := .character, cnt := 2, idx := k }

theorem witness_TransmitTakes27Positions :
    (tBusy.cfg.valid = true ∧ tBusy.busy = true ∧ positionLegal tBusy = true ∧
      transferRow tBusy.cfg tBusy.byte tBusy.mode tBusy.seq.st tBusy.seq.u = some ([], .latchHigh, 0)) ∧
    (tByteEnd.cfg.valid = true ∧ tByteEnd.busy = true ∧ positionLegal tByteEnd = true ∧
      transferRow tByteEnd.cfg tByteEnd.byte tByteEnd.mode tByteEnd.seq.st tByteEnd.seq.u = some ([.dly 500], .idle, 0) ∧
        tByteEnd.seq.op ∈ [OpName.transmit, .writeCommand, .writeChar]) ∧
    (∀ k ∈ [0, 5], (tInitEnd k).cfg.valid = true ∧ (tInitEnd k).busy = true ∧ positionLegal (tInitEnd k) = true ∧
      initInProgress (tInitEnd k) = true ∧ transferRow (tInitEnd k).cfg (tInitEnd k).byte (tInitEnd k).mode (tInitEnd k).seq.st
        (tInitEnd k).seq.u = some ([.dly 500], .idle, 0)) ∧
    (∀ k ∈ [0, 1], (tTextEnd k).cfg.valid = true ∧ (tTextEnd k).busy = true ∧ positionLegal (tTextEnd k) = true ∧
      writeTextInProgress (tTextEnd k) = true ∧ transferRow (tTextEnd k).cfg (tTextEnd k).byte (tTextEnd k).mode (tTextEnd k).seq.st
        (tTextEnd k).seq.u = some ([.dly 500], .idle, 0)) := by decide

end Sys2Proof.Tests
end

section
/-!
Function-select fields: what each bit of a mask, of a placed code and of an assembled register is (spec/30_encoding.md R92), and from
these what `CONFIGURE` and `CONFIGURE_ALL` leave in the device (spec/40_gpio_bank.md R131, spec/43_facade.md R222).
-/

namespace Sys2Proof.Machine

/-! ## Bits of a field -/

/-- Bit `i` of the function-select register `k` is in the field of pin `p` (30 R92). -/
def InField (p : Pin) (k : Fin 6) (i : Nat) : Prop := fselReg p = k ∧ fselShift p ≤ i ∧ i < fselShift p + 3

theorem inField_iff (p : Pin) (k : Fin 6) (i : Nat) :
    InField p k i ↔ p.val / 10 = k.val ∧ 3 * (p.val % 10) ≤ i ∧ i < 3 * (p.val % 10) + 3 := by
  simp [InField, fselReg, fselShift, Fin.ext_iff]

/-- Bit `i` of its code stands in the field of the pin. -/
theorem inField_add (p : Pin) {i : Nat} (hi : i < 3) : InField p (fselReg p) (fselShift p + i) :=
  ⟨rfl, by omega⟩

/-- The fields of two pins are disjoint. -/
theorem InField.pin_ext {p q : Pin} {k : Fin 6} {i : Nat} (hp : InField p k i) (hq : InField q k i) : p = q := by
  rw [inField_iff] at hp hq
  exact Fin.ext (by omega)

/-- The bits of a placed code are in its pin's field. -/
theorem getLsbD_fieldValue (code : BitVec 3) (p : Pin) (i : Nat) :
    (fieldValue code p).getLsbD i = (decide (fselShift p ≤ i) && code.getLsbD (i - fselShift p)) := by
  have hs : fselShift p ≤ 27 := by unfold fselShift; omega
  have hout : 3 ≤ i - fselShift p → code.getLsbD (i - fselShift p) = false := BitVec.getLsbD_of_ge code _
  simp only [fieldValue, BitVec.getLsbD_shiftLeft, BitVec.getLsbD_setWidth]
  grind

/-- The mask of a field is the code of three ones placed there. -/
theorem regMask_eq_regValue (k : Fin 6) (ps : List Pin) : regMask k ps = regValue (BitVec.allOnes 3) k ps := rfl

/-- A bit of a joined value is set where it is a set bit of the code in the field of one of the pins. -/
theorem getLsbD_regValue (code : BitVec 3) (k : Fin 6) (ps : List Pin) (i : Nat) :
    (regValue code k ps).getLsbD i = true ↔ ∃ p ∈ ps, InField p k i ∧ code.getLsbD (i - fselShift p) = true := by
  induction ps with
  | nil => simp [regValue]
  | cons p ps ih =>
    have hcons : regValue code k (p :: ps) = (if fselReg p = k then fieldValue code p else 0#32) ||| regValue code k ps := by
      by_cases hk : fselReg p = k <;> simp [regValue, hk]
    have hp : (if fselReg p = k then fieldValue code p else 0#32).getLsbD i = true ↔
        InField p k i ∧ code.getLsbD (i - fselShift p) = true := by
      have hout : 3 ≤ i - fselShift p → code.getLsbD (i - fselShift p) = false := BitVec.getLsbD_of_ge code _
      by_cases hk : fselReg p = k
      · rw [if_pos hk, getLsbD_fieldValue, Bool.and_eq_true, decide_eq_true_eq]
        grind [InField]
      · simp [hk, InField]
    rw [hcons, BitVec.getLsbD_or, Bool.or_eq_true, hp, ih]
    simp

/-- A bit inside the field of a pin of the set is the pin's bit of the code. -/
theorem getLsbD_assembled_of_mem (code : BitVec 3) {ps : List Pin} {p : Pin} {k : Fin 6} (old : Reg32) {i : Nat}
    (hp : p ∈ ps) (hi : InField p k i) : (assembled code k ps old).getLsbD i = code.getLsbD (i - fselShift p) := by
  have hmask : (regMask k ps).getLsbD i = true := by
    have hbits : fselShift p ≤ i ∧ i < fselShift p + 3 := hi.2
    rw [regMask_eq_regValue, getLsbD_regValue]
    exact ⟨p, hp, hi, by simp only [BitVec.getLsbD_allOnes, decide_eq_true_eq]; omega⟩
  have hvalue : (regValue code k ps).getLsbD i = code.getLsbD (i - fselShift p) := by
    rw [Bool.eq_iff_iff, getLsbD_regValue]
    constructor
    · rintro ⟨q, -, hq, hc⟩
      rwa [hi.pin_ext hq]
    · intro hc
      exact ⟨p, hp, hi, hc⟩
  simp [assembled, hmask, hvalue]

/-- A bit outside the fields of the set is as it was. -/
theorem getLsbD_assembled_of_outside (code : BitVec 3) {ps : List Pin} {k : Fin 6} (old : Reg32) {i : Nat}
    (h : ∀ p ∈ ps, ¬InField p k i) : (assembled code k ps old).getLsbD i = old.getLsbD i := by
  have hvalue (c : BitVec 3) : (regValue c k ps).getLsbD i = false := by
    rw [← Bool.not_eq_true, getLsbD_regValue]
    rintro ⟨p, hp, hi, -⟩
    exact h p hp hi
  have hold : 32 ≤ i → old.getLsbD i = false := BitVec.getLsbD_of_ge old i
  simp only [assembled, regMask_eq_regValue, BitVec.getLsbD_or, BitVec.getLsbD_and, BitVec.getLsbD_not, hvalue]
  grind

/-! ## `CONFIGURE` -/

theorem configureReg_fsel (ps : List Pin) (code : BitVec 3) (s : State) (j k : Fin 6) :
    (configureReg ps code s j).dev.fsel[k] = if k = j then assembled code k ps s.dev.fsel[k] else s.dev.fsel[k] := by
  by_cases h : k = j
  · subst h; simp [configureReg, deviceWrite]
  · have hv : ¬j.val = k.val := fun hv => h (Fin.ext hv.symm)
    simp [configureReg, deviceWrite, h, hv]

/-- A fold over different registers assembles each of them once. -/
theorem configureRegs_fsel (ps : List Pin) (code : BitVec 3) (k : Fin 6) (ks : List (Fin 6)) (hks : ks.Nodup) (s : State) :
    (ks.foldl (configureReg ps code) s).dev.fsel[k] =
      if k ∈ ks then assembled code k ps s.dev.fsel[k] else s.dev.fsel[k] := by
  induction ks generalizing s with
  | nil => simp
  | cons j ks ih =>
    obtain ⟨hj, hks⟩ := List.nodup_cons.1 hks
    rw [List.foldl_cons, ih hks, configureReg_fsel]
    grind

theorem configureRegs_outl (ps : List Pin) (code : BitVec 3) (ks : List (Fin 6)) (s : State) :
    (ks.foldl (configureReg ps code) s).dev.outl = s.dev.outl := by
  induction ks generalizing s with
  | nil => rfl
  | cons j ks ih => exact ih _

/-- `CONFIGURE` assembles each register its pins touch and leaves the others (40 R131). -/
theorem configurePins_fsel (ps : List Pin) (dir : PinDirection) (s : State) (k : Fin 6) :
    (configurePins ps dir s).dev.fsel[k] =
      if k ∈ touched ps then assembled (codeOf s.cfg dir) k ps s.dev.fsel[k] else s.dev.fsel[k] :=
  configureRegs_fsel ps (codeOf s.cfg dir) k (touched ps) (List.Nodup.filter _ (by decide)) (barrier s)

@[simp] theorem configurePins_outl (ps : List Pin) (dir : PinDirection) (s : State) :
    (configurePins ps dir s).dev.outl = s.dev.outl :=
  configureRegs_outl ps (codeOf s.cfg dir) (touched ps) (barrier s)

@[simp] theorem configurePins_cfg (ps : List Pin) (dir : PinDirection) (s : State) :
    (configurePins ps dir s).cfg = s.cfg := by
  rw [configurePins_frame ps dir s]

/-- The touched registers are those that hold a field of the set. -/
theorem mem_touched {ps : List Pin} {k : Fin 6} : k ∈ touched ps ↔ ∃ p ∈ ps, fselReg p = k := by
  have hk : k ∈ [0, 1, 2, 3, 4, 5] := by revert k; decide
  simp [touched, hk]

theorem getLsbD_configurePins_of_outside {ps : List Pin} {k : Fin 6} {i : Nat} (h : ∀ p ∈ ps, ¬InField p k i)
    (dir : PinDirection) (s : State) :
    ((configurePins ps dir s).dev.fsel[k]).getLsbD i = (s.dev.fsel[k]).getLsbD i := by
  rw [configurePins_fsel]
  split
  · exact getLsbD_assembled_of_outside _ _ h
  · rfl

/-- Every pin of the set has the code of the direction (40 R131). -/
theorem fieldOf_configurePins_of_mem {ps : List Pin} {p : Pin} (hp : p ∈ ps) (dir : PinDirection) (s : State) :
    fieldOf (configurePins ps dir s).dev p = codeOf s.cfg dir := by
  apply BitVec.eq_of_getLsbD_eq
  intro i hi
  rw [fieldOf, configurePins_fsel, if_pos (mem_touched.2 ⟨p, hp, rfl⟩), BitVec.getLsbD_extractLsb',
    getLsbD_assembled_of_mem _ _ hp (inField_add p hi)]
  simp [hi]

/-- A pin that is not in the set keeps its field. -/
theorem fieldOf_configurePins_of_not_mem {ps : List Pin} {p : Pin} (hp : p ∉ ps) (dir : PinDirection) (s : State) :
    fieldOf (configurePins ps dir s).dev p = fieldOf s.dev p := by
  apply BitVec.eq_of_getLsbD_eq
  intro i hi
  have hout : ∀ q ∈ ps, ¬InField q (fselReg p) (fselShift p + i) :=
    fun q hq hf => hp ((inField_add p hi).pin_ext hf ▸ hq)
  simp only [fieldOf, BitVec.getLsbD_extractLsb', getLsbD_configurePins_of_outside hout]

/-! ## `CONFIGURE_ALL` -/

@[simp] theorem configureAllBody_outl (s : State) : (configureAllBody s).dev.outl = s.dev.outl := by
  simp [configureAllBody]

@[simp] theorem configureAllBody_cfg (s : State) : (configureAllBody s).cfg = s.cfg := by
  rw [configureAllBody_frame s]

@[simp] theorem configureAllBody_life (s : State) : (configureAllBody s).life = s.life := by
  rw [configureAllBody_frame s]

@[simp] theorem configureAllBody_ready (s : State) : (configureAllBody s).ready = s.ready := by
  rw [configureAllBody_frame s]

theorem button_not_mem_outputs {c : Config} (h : c.valid = true) : c.pins.button ∉ c.pins.outputs := by
  simp only [Config.valid, Bool.and_eq_true, decide_eq_true_eq] at h
  obtain ⟨⟨⟨⟨hpins, -⟩, -⟩, -⟩, -⟩ := h
  exact fun hmem => List.disjoint_of_nodup_append hpins hmem (List.mem_singleton_self _)

theorem functionOf_fselOutput {c : Config} (h : c.valid = true) : functionOf c c.fselOutput = .output := by
  have hcode : c.fselOutput ≠ fselInputCode := by
    simp only [Config.valid, Bool.and_eq_true, bne_iff_ne] at h
    obtain ⟨⟨-, hne⟩, -⟩ := h
    exact hne
  simp [functionOf, hcode]

/-- After `CONFIGURE_ALL` the eight output pins are outputs: the button, configured last, is none of them. -/
theorem pinFunction_configureAllBody_output {s : State} (h : s.cfg.valid = true) {p : Pin} (hp : p ∈ s.cfg.pins.outputs) :
    pinFunction s.cfg (configureAllBody s).dev p = .output := by
  have hbutton : p ∉ [s.cfg.pins.button] := by
    rw [List.mem_singleton]
    rintro rfl
    exact button_not_mem_outputs h hp
  rw [pinFunction, configureAllBody, fieldOf_configurePins_of_not_mem hbutton, fieldOf_configurePins_of_mem hp]
  exact functionOf_fselOutput h

theorem pinFunction_configureAllBody_button (s : State) :
    pinFunction s.cfg (configureAllBody s).dev s.cfg.pins.button = .input := by
  rw [pinFunction, configureAllBody, fieldOf_configurePins_of_mem (List.mem_singleton_self _)]
  rfl

theorem getLsbD_configureAllBody_of_outside {s : State} {k : Fin 6} {i : Nat} (h : ∀ p ∈ s.cfg.pins.all, ¬InField p k i) :
    ((configureAllBody s).dev.fsel[k]).getLsbD i = (s.dev.fsel[k]).getLsbD i := by
  rw [PinMap.all, List.forall_mem_append] at h
  rw [configureAllBody, getLsbD_configurePins_of_outside h.2, getLsbD_configurePins_of_outside h.1]

end Sys2Proof.Machine
end

section
/-!
What `ACTIVATE` and `DEACTIVATE` leave (spec/10_state.md R42, spec/44_command_channel.md R240, R241), and that no other instruction
changes `LIFE` or runs while the block is Inactive (10 R26, spec/60_exceptions.md R287).
-/

namespace Sys2Proof.Machine

/-! ## The two operations that move `LIFE` -/

/-- The state in which a successful `ACTIVATE` configures the pins: Active and not ready (44 R240). -/
def activating (s : State) : State := { setReady false (beginOp .activate s) with life := .active }

@[simp] theorem activating_life (s : State) : (activating s).life = .active := rfl
@[simp] theorem activating_ready (s : State) : (activating s).ready = false := rfl
@[simp] theorem activating_cfg (s : State) : (activating s).cfg = s.cfg := rfl
@[simp] theorem activating_dev (s : State) : (activating s).dev = s.dev := rfl

/-- An accepted `ACTIVATE` is `CONFIGURE_ALL` in the state made Active, or reports the failed mapping (44 R240). -/
theorem activate_next {ok : Bool} {s t : State} (h : exec (.activate ok) s = .next t) :
    t = if ok then finish { configureAllBody (activating s) with result := .ok } else raiseError .fatalMappingError s := by
  simp only [exec, execActivate] at h
  split_ifs at h with hlife hbusy hok <;> cases h
  · rw [if_pos hok]; rfl
  · rw [if_neg hok]

/-- An accepted `DEACTIVATE` clears `READY` and ends Inactive (44 R241). -/
theorem deactivate_next {s t : State} (h : exec .deactivate s = .next t) :
    t = finish { setReady false (beginOp .deactivate s) with life := .inactive } := by
  simp only [exec, execDeactivate] at h
  split_ifs at h
  cases h
  rfl

/-- Settles O37: `ACTIVATE` is `CONFIGURE_ALL` in a state made Active and not ready, and each bit of a function-select register is in
the field of one pin or of none. -/
theorem valuesAfterLifecycle : Obligations.ValuesAfterLifecycle := by
  unfold Obligations.ValuesAfterLifecycle
  refine ⟨fun s t hvalid h => ?_, fun s t h => ?_, fun s t h => ?_⟩
  · obtain rfl := activate_next h
    have hvalid' : (activating s).cfg.valid = true := hvalid
    refine ⟨configureAllBody_life _, configureAllBody_ready _, finish_busy _, finish_seq _, fun p hp => ?_, ?_, fun k i hout => ?_,
      configureAllBody_outl _⟩
    · simpa using pinFunction_configureAllBody_output hvalid' hp
    · simpa using pinFunction_configureAllBody_button (activating s)
    · refine getLsbD_configureAllBody_of_outside (s := activating s) fun p hp hf => ?_
      obtain ⟨hreg, hbits⟩ := (inField_iff p k i).1 hf
      exact hout p hp hreg hbits
  · obtain rfl := activate_next h
    rfl
  · obtain rfl := deactivate_next h
    exact ⟨rfl, rfl, rfl⟩

/-! ## The checks every other instruction makes first -/

/-- An instruction that needs the block Active answers nothing before the checks of `LIFE` and `BUSY` (60 R293). -/
theorem exec_eq_whenActive {i : Instr} (hi : needsActive i = true) (s : State) : ∃ k, exec i s = whenActive s k := by
  cases i with
  | activate ok => cases hi
  | deactivate => cases hi
  | fselPlace p code =>
    simp only [exec, execFselPlace]
    split <;> exact ⟨_, rfl⟩
  | pinBit p =>
    simp only [exec, execPinBit]
    split <;> exact ⟨_, rfl⟩
  | _ => exact ⟨_, rfl⟩

theorem exec_of_inactive {i : Instr} (hi : needsActive i = true) {s : State} (hs : s.life = .inactive) :
    exec i s = .refused .useWhileUnmapped := by
  obtain ⟨k, hk⟩ := exec_eq_whenActive hi s
  rw [hk, whenActive, if_pos hs]

/-- Every instruction but `ACTIVATE` and `DEACTIVATE` needs the block Active. -/
theorem needsActive_or_lifecycle (i : Instr) : needsActive i = true ∨ (∃ ok, i = .activate ok) ∨ i = .deactivate := by
  cases i with
  | activate ok => exact .inr (.inl ⟨ok, rfl⟩)
  | deactivate => exact .inr (.inr rfl)
  | _ => exact .inl rfl

/-! ## What every other instruction leaves -/

/-- What no instruction but the two that move `LIFE` writes: the mode, the parameters, the request port and the form of the machine. -/
structure OpFrame (s t : State) : Prop where
  life : t.life = s.life
  cfg : t.cfg = s.cfg
  port : t.port = s.port
  grain : t.grain = s.grain

theorem OpFrame.refl (s : State) : OpFrame s s := ⟨rfl, rfl, rfl, rfl⟩

theorem OpFrame.trans {s t u : State} (h : OpFrame s t) (k : OpFrame t u) : OpFrame s u :=
  ⟨k.life.trans h.life, k.cfg.trans h.cfg, k.port.trans h.port, k.grain.trans h.grain⟩

theorem PinFrame.opFrame {s t : State} (h : PinFrame s t) : OpFrame s t := by
  rw [h]; exact ⟨rfl, rfl, rfl, rfl⟩

theorem loadByte_opFrame (b : Byte) (m : Mode) (s : State) : OpFrame s (loadByte b m s) := ⟨rfl, rfl, rfl, rfl⟩
theorem setReady_opFrame (b : Bool) (s : State) : OpFrame s (setReady b s) := ⟨rfl, rfl, rfl, rfl⟩
theorem startInit_opFrame (s : State) : OpFrame s (startInit s) := ⟨rfl, rfl, rfl, rfl⟩
theorem nextInit_opFrame (s : State) : OpFrame s (nextInit s) := ⟨rfl, rfl, rfl, rfl⟩
theorem loadText_opFrame (text : List Byte) (s : State) : OpFrame s (loadText text s) := ⟨rfl, rfl, rfl, rfl⟩
theorem nextText_opFrame (s : State) : OpFrame s (nextText s) := ⟨rfl, rfl, rfl, rfl⟩
theorem dropRequest_opFrame (s : State) : OpFrame s (dropRequest s) := ⟨rfl, rfl, rfl, rfl⟩
theorem readLev_opFrame (j : Fin 2) (s : State) : OpFrame s (readLev j s) := ⟨rfl, rfl, rfl, rfl⟩
theorem logEntry_opFrame (s : State) : OpFrame s (logEntry s) := ⟨rfl, rfl, rfl, rfl⟩
theorem dropResponse_opFrame (s : State) : OpFrame s (dropResponse s) := ⟨rfl, rfl, rfl, rfl⟩
theorem storeRequest_opFrame (bytes : List Byte) (s : State) : OpFrame s (storeRequest bytes s) :=
  ⟨storeRequest_life bytes s, storeRequest_cfg bytes s, storeRequest_port bytes s, storeRequest_grain bytes s⟩
theorem storeResponse_opFrame (d : Bool) (s : State) : OpFrame s (storeResponse d s) :=
  ⟨storeResponse_life d s, storeResponse_cfg d s, storeResponse_port d s, storeResponse_grain d s⟩
theorem setResult_opFrame (r : Result) (s : State) : OpFrame s { s with result := r } := ⟨rfl, rfl, rfl, rfl⟩

theorem absorbError_opFrame (n : Nat) (s : State) : OpFrame s (absorbError n s) :=
  (logEntry_opFrame s).trans (setResult_opFrame _ _)

theorem readPin_opFrame (p : Pin) (s : State) : OpFrame s (readPin p s) :=
  (barrier_frame s).opFrame.trans (readLev_opFrame _ _)

theorem readPinResult_opFrame (p : Pin) (s : State) : OpFrame s (readPinResult p s) :=
  (readPin_opFrame p s).trans (setResult_opFrame _ _)

theorem readReqBody_opFrame (s : State) : OpFrame s (readReqBody s) :=
  (((readPin_opFrame _ s).trans (storeResponse_opFrame _ _)).trans (setResult_opFrame _ _)).trans (dropResponse_opFrame _)

theorem transmitByte_opFrame (b : Byte) (m : Mode) (s : State) : OpFrame s (transmitByte b m s) :=
  (loadByte_opFrame b m s).trans (transmitByte_frame b m s).opFrame

theorem initLoop_opFrame (n : Nat) (s : State) : OpFrame s (initLoop n s) := by
  induction n generalizing s with
  | zero => exact .refl s
  | succ n ih =>
    rw [initLoop]
    split
    · exact ((transmitByte_opFrame _ _ s).trans (nextInit_opFrame _)).trans (ih _)
    · exact .refl s

theorem initBody_opFrame (s : State) : OpFrame s (initBody s) :=
  (((startInit_opFrame s).trans (initLoop_opFrame 6 _)).trans (delay_frame _ _).opFrame).trans (setReady_opFrame true _)

theorem textLoop_opFrame (n : Nat) (s : State) : OpFrame s (textLoop n s) := by
  induction n generalizing s with
  | zero => exact .refl s
  | succ n ih =>
    rw [textLoop]
    split
    · exact ((transmitByte_opFrame _ _ s).trans (nextText_opFrame _)).trans (ih _)
    · exact .refl s

theorem textBody_opFrame (text : List Byte) (s : State) : OpFrame s (textBody text s) :=
  (loadText_opFrame text s).trans (textLoop_opFrame maxText _)

theorem renderBody_opFrame (text : List Byte) (s : State) : OpFrame s (renderBody text s) :=
  (((configureAllBody_frame s).opFrame.trans (initBody_opFrame _)).trans (delay_frame _ _).opFrame).trans (textBody_opFrame text _)

theorem writeReqBody_opFrame (bytes : List Byte) (s : State) : OpFrame s (writeReqBody bytes s) := by
  unfold writeReqBody
  split
  · exact ((storeRequest_opFrame bytes s).trans (renderBody_opFrame _ _)).trans (setResult_opFrame _ _)
  · exact (storeRequest_opFrame bytes s).trans (absorbError_opFrame _ _)

/-- An answer that is a next state comes after the checks (60 R293). -/
theorem whenActive_next {k : Answer} {s t : State} (h : whenActive s k = .next t) : CanRun s ∧ k = .next t := by
  unfold whenActive at h
  split_ifs at h with hlife hbusy
  have hactive : s.life = .active := by
    cases hl : s.life with
    | inactive => exact absurd hl hlife
    | active => rfl
  exact ⟨⟨hactive, Bool.eq_false_of_not_eq_true hbusy⟩, h⟩

theorem finish_opFrame (op : OpName) {body : State → State} (hbody : ∀ u, OpFrame u (body u)) (s : State) :
    OpFrame s (finish (body (beginOp op s))) :=
  let h := hbody (beginOp op s)
  ⟨h.life, h.cfg, h.port, h.grain⟩

theorem runOp_opFrame {op : OpName} {body : State → State} (hbody : ∀ u, OpFrame u (body u)) {s t : State}
    (h : runOp op body s = .next t) : OpFrame s t := by
  obtain ⟨-, h⟩ := whenActive_next h
  cases h
  exact finish_opFrame op hbody s

theorem runPinOp_opFrame {op : OpName} {p : Nat} {body : Pin → State → State} (hbody : ∀ q u, OpFrame u (body q u)) {s t : State}
    (h : runPinOp op p body s = .next t) : OpFrame s t := by
  obtain ⟨-, h⟩ := whenActive_next h
  split at h
  · cases h; exact finish_opFrame op (hbody _) s
  · cases h

theorem runTextOp_opFrame {op : OpName} {x : List Byte} {n : Nat} {body : List Byte → State → State}
    (hbody : ∀ text u, OpFrame u (body text u)) {s t : State} (h : runTextOp op x n body s = .next t) : OpFrame s t := by
  obtain ⟨-, h⟩ := whenActive_next h
  split at h
  · cases h; exact finish_opFrame op (hbody _) s
  · cases h

theorem evaluate_opFrame {r : Result} {s t : State} (h : evaluate r s = .next t) : OpFrame s t := by
  obtain ⟨-, h⟩ := whenActive_next h
  cases h
  exact ⟨rfl, rfl, rfl, rfl⟩

theorem execAccess_opFrame {r : Reg} {a : Access} {s t : State} (h : execAccess r a s = .next t) : OpFrame s t := by
  obtain ⟨-, h⟩ := whenActive_next h
  unfold accessReg at h
  split at h <;> cases h <;> exact ⟨rfl, rfl, rfl, rfl⟩

/-- An instruction that needs the block Active keeps the frame, by the operation its row runs. -/
theorem exec_opFrame {i : Instr} (hi : needsActive i = true) {s t : State} (h : exec i s = .next t) : OpFrame s t := by
  cases i with
  | activate => cases hi
  | deactivate => cases hi
  | configure pins dir =>
    obtain ⟨-, h⟩ := whenActive_next h
    split at h
    · cases h; exact finish_opFrame _ (fun u => (configurePins_frame _ dir u).opFrame) s
    · cases h
  | set => exact runPinOp_opFrame (fun q u => (setPin_frame q _ u).opFrame) h
  | read => exact runPinOp_opFrame readPinResult_opFrame h
  | transmit | writeCommand | writeChar | lcdCommand | lcdChar | init0 | init1 | init2 | init3 | init4 | init5 | notSent28 =>
    exact runOp_opFrame (transmitByte_opFrame _ _) h
  | init => exact runOp_opFrame initBody_opFrame h
  | writeText => exact runTextOp_opFrame textBody_opFrame h
  | configureAll => exact runOp_opFrame (fun u => (configureAllBody_frame u).opFrame) h
  | ledSet => exact runOp_opFrame (fun u => (setPin_frame _ _ u).opFrame) h
  | buttonRead => exact runOp_opFrame (fun u => readPinResult_opFrame _ u) h
  | render => exact runTextOp_opFrame renderBody_opFrame h
  | readReq => exact runOp_opFrame readReqBody_opFrame h
  | writeReq bytes =>
    exact runOp_opFrame (fun u => (writeReqBody_opFrame bytes u).trans (dropRequest_opFrame _)) h
  | gpfsel0 | gpfsel1 | gpfsel2 | gpfsel3 | gpfsel4 | gpfsel5 | gpset0 | gpset1 | gpclr0 | gpclr1 | gplev0 | gplev1 =>
    exact execAccess_opFrame h
  | fselInput | fselOutput | fselAlt2 | fselAlt3 | fselAlt4 | fselAlt5 | fselAlt6 | fselAlt7 | wireReadResp | wireWriteReq =>
    exact evaluate_opFrame h
  | fselPlace p code =>
    simp only [exec, execFselPlace] at h
    split at h
    · exact evaluate_opFrame h
    · cases (whenActive_next h).2
  | pinBit p =>
    simp only [exec, execPinBit] at h
    split at h
    · exact evaluate_opFrame h
    · cases (whenActive_next h).2
  | latchSample =>
    obtain ⟨-, h⟩ := whenActive_next h
    cases h
    exact ⟨rfl, rfl, rfl, rfl⟩

/-- Settles O51, by the frame and the first check of every instruction that needs the block Active. -/
theorem onlyLifecycleChangesLife : Obligations.OnlyLifecycleChangesLife := by
  unfold Obligations.OnlyLifecycleChangesLife
  refine ⟨fun i s t h => ?_, fun i s hs _ hact hdeact => ?_⟩
  · obtain hi | ⟨ok, rfl⟩ | rfl := needsActive_or_lifecycle i
    · exact .inl (exec_opFrame hi h).life
    · obtain rfl := activate_next h
      cases ok with
      | false => exact .inl rfl
      | true => exact .inr (.inl ⟨rfl, configureAllBody_life _⟩)
    · obtain rfl := deactivate_next h
      exact .inr (.inr ⟨rfl, rfl⟩)
  · obtain hi | ⟨ok, rfl⟩ | rfl := needsActive_or_lifecycle i
    · exact exec_of_inactive hi hs
    · exact absurd rfl (hact ok)
    · exact absurd rfl hdeact

end Sys2Proof.Machine
end

section
/-!
PROOFS. The grammar of a write request (spec/30_encoding.md R111): `skipWs` and `spanToken` give the one way to cut a text at its
white space, so the parser's cuts are those of the grammar.
-/

namespace Sys2Proof.Machine

/-! ## Byte classes -/

theorem isWs_eq_false_of_isNonWs {b : Byte} (h : isNonWs b = true) : isWs b = false := by
  simp only [isNonWs, Bool.and_eq_true, Bool.not_eq_true'] at h
  exact h.1

theorem isWs_eq_false_of_isDigit {b : Byte} (h : isDigit b = true) : isWs b = false := by
  revert b
  decide

/-! ## The two cuts -/

/-- The first byte of a text of one class, whatever follows the text. -/
theorem head?_append_of_all {p : Byte → Prop} {x : List Byte} (hx : x ≠ []) (hp : ∀ b ∈ x, p b) (y : List Byte) :
    ∀ b ∈ (x ++ y).head?, p b := by
  intro b hb
  rw [List.head?_append_of_ne_nil x hx] at hb
  exact hp b (List.mem_of_mem_head? hb)

/-- What is left without the bytes of a class begins with a byte outside it. -/
theorem head?_dropWhile_eq_false {p : Byte → Bool} {bs : List Byte} : ∀ b ∈ (bs.dropWhile p).head?, p b = false := by
  intro b hb
  have hnot := List.head?_dropWhile_not p bs
  rw [Option.mem_def.1 hb] at hnot
  exact hnot

/-- A text that begins with a byte outside a class loses nothing. -/
theorem dropWhile_of_head? {p : Byte → Bool} {r : List Byte} (h : ∀ b ∈ r.head?, p b = false) : r.dropWhile p = r := by
  cases r with
  | nil => rfl
  | cons b r => exact List.dropWhile_cons_of_neg (by simp [h b rfl])

/-- A text that begins with a byte outside a class has no run of that class in front. -/
theorem takeWhile_of_head? {p : Byte → Bool} {r : List Byte} (h : ∀ b ∈ r.head?, p b = false) : r.takeWhile p = [] := by
  cases r with
  | nil => rfl
  | cons b r => exact List.takeWhile_cons_of_neg (by simp [h b rfl])

/-- `skipWs` takes away a run of white space that no further white space follows. -/
theorem skipWs_eq_iff {bs r : List Byte} :
    skipWs bs = r ↔ ∃ w, (∀ b ∈ w, isWs b = true) ∧ bs = w ++ r ∧ ∀ b ∈ r.head?, isWs b = false := by
  constructor
  · rintro rfl
    exact ⟨bs.takeWhile isWs, fun _ hb => List.mem_takeWhile_imp hb, List.takeWhile_append_dropWhile.symm,
      head?_dropWhile_eq_false⟩
  · rintro ⟨w, hw, rfl, hr⟩
    rw [skipWs, List.dropWhile_append_of_pos hw, dropWhile_of_head? hr]

/-- `spanToken` cuts off a run without white space that the text's end or white space follows. -/
theorem spanToken_eq_iff {bs t r : List Byte} :
    spanToken bs = (t, r) ↔ (∀ b ∈ t, isWs b = false) ∧ bs = t ++ r ∧ ∀ b ∈ r.head?, isWs b = true := by
  constructor
  · intro h
    obtain ⟨rfl, rfl⟩ := Prod.mk.inj h
    refine ⟨fun b hb => ?_, List.takeWhile_append_dropWhile.symm, fun b hb => ?_⟩
    · simpa using List.mem_takeWhile_imp hb
    · simpa using head?_dropWhile_eq_false b hb
  · rintro ⟨ht, rfl, hr⟩
    have ht : ∀ b ∈ t, (!isWs b) = true := by simpa using ht
    have hr : ∀ b ∈ r.head?, (!isWs b) = false := by simpa using hr
    rw [spanToken, List.takeWhile_append_of_pos ht, List.dropWhile_append_of_pos ht, takeWhile_of_head? hr,
      dropWhile_of_head? hr, List.append_nil]

theorem skipWs_eq_nil_iff {bs : List Byte} : skipWs bs = [] ↔ ∀ b ∈ bs, isWs b = true :=
  List.dropWhile_eq_nil_iff

/-! ## The parser -/

/-- The four cuts of the parser leave this token and these digits, as it asks for them, and nothing after the white space behind. -/
def RequestCuts (bs token digits : List Byte) : Prop :=
  ∃ r w, spanToken (skipWs bs) = (token, r) ∧ spanToken (skipWs r) = (digits, w) ∧
    token ≠ [] ∧ token.length ≤ 16 ∧ token.all isNonWs = true ∧ digits ≠ [] ∧ digits.all isDigit = true ∧ skipWs w = []

theorem parseRequest_eq_some_iff {bs token : List Byte} {n : Nat} :
    parseRequest bs = some (token, n) ↔ ∃ digits, RequestCuts bs token digits ∧ n = decimalValue digits := by
  constructor
  · intro h
    simp only [parseRequest, Option.ite_none_right_eq_some, Option.some.injEq, Prod.mk.injEq] at h
    obtain ⟨hparts, rfl, rfl⟩ := h
    exact ⟨_, ⟨_, _, rfl, rfl, hparts⟩, rfl⟩
  · rintro ⟨digits, ⟨r, w, htoken, hdigits, hparts⟩, rfl⟩
    simp only [parseRequest, htoken, hdigits]
    exact if_pos hparts

/-- The parser's cuts are a split of the grammar. -/
theorem RequestCuts.requestForm {bs token digits : List Byte} (h : RequestCuts bs token digits) :
    RequestForm bs token digits := by
  obtain ⟨r, w, htoken, hdigits, hne, hlen, hnonws, hdne, hdigit, hend⟩ := h
  obtain ⟨-, hbs, hrhead⟩ := spanToken_eq_iff.1 htoken
  obtain ⟨w0, hw0, rfl, -⟩ := skipWs_eq_iff.1 hbs
  obtain ⟨hdnows, hr, -⟩ := spanToken_eq_iff.1 hdigits
  obtain ⟨w1, hw1, rfl, -⟩ := skipWs_eq_iff.1 hr
  -- Without white space between them the digits would still stand in the token.
  have hw1ne : w1 ≠ [] := by
    rintro rfl
    obtain ⟨d, ds, rfl⟩ := List.exists_cons_of_ne_nil hdne
    have hws : isWs d = true := hrhead d rfl
    simp [hdnows d List.mem_cons_self] at hws
  exact ⟨w0, w1, w, by simp, List.all_eq_true.2 hw0, hw1ne, List.all_eq_true.2 hw1,
    List.all_eq_true.2 (skipWs_eq_nil_iff.1 hend), hne, hlen, hnonws, hdne, hdigit⟩

/-- A split of the grammar is what the parser's cuts give: each of its parts ends where the byte class changes. -/
theorem RequestForm.requestCuts {bs token digits : List Byte} (h : RequestForm bs token digits) :
    RequestCuts bs token digits := by
  obtain ⟨w0, w1, w2, rfl, hw0, hw1ne, hw1, hw2, hne, hlen, hnonws, hdne, hdigit⟩ := h
  rw [List.all_eq_true] at hw0 hw1 hw2
  have htnows : ∀ b ∈ token, isWs b = false := fun b hb => isWs_eq_false_of_isNonWs (List.all_eq_true.1 hnonws b hb)
  have hdnows : ∀ b ∈ digits, isWs b = false := fun b hb => isWs_eq_false_of_isDigit (List.all_eq_true.1 hdigit b hb)
  have hskip : skipWs (w0 ++ token ++ w1 ++ digits ++ w2) = token ++ (w1 ++ (digits ++ w2)) :=
    skipWs_eq_iff.2 ⟨w0, hw0, by simp, head?_append_of_all hne htnows _⟩
  have hskip' : skipWs (w1 ++ (digits ++ w2)) = digits ++ w2 :=
    skipWs_eq_iff.2 ⟨w1, hw1, rfl, head?_append_of_all hdne hdnows _⟩
  refine ⟨w1 ++ (digits ++ w2), w2, ?_, ?_, hne, hlen, hnonws, hdne, hdigit, skipWs_eq_nil_iff.2 hw2⟩
  · exact spanToken_eq_iff.2 ⟨htnows, hskip, head?_append_of_all hw1ne hw1 _⟩
  · exact spanToken_eq_iff.2 ⟨hdnows, hskip', fun b hb => hw2 b (List.mem_of_mem_head? hb)⟩

theorem requestCuts_iff_requestForm {bs token digits : List Byte} :
    RequestCuts bs token digits ↔ RequestForm bs token digits :=
  ⟨RequestCuts.requestForm, RequestForm.requestCuts⟩

/-- Settles O43, by the parser's cuts, which are exactly the splits of the grammar. -/
theorem requestGrammar : Obligations.RequestGrammar := by
  unfold Obligations.RequestGrammar
  intro bs token n
  simp only [parseRequest_eq_some_iff, requestCuts_iff_requestForm]

end Sys2Proof.Machine
end

section
/-!
PROOFS. The GPIO bank (spec/40_gpio_bank.md R131, R135, R138): what one `CONFIGURE`, one `SET` and one `READ` add to the trace and to the
latch list, and that they write nothing else.
-/

namespace Sys2Proof.Machine

/-! ## Accepted operations -/

theorem whenActive_of_canRun {s : State} (h : CanRun s) (k : Answer) : whenActive s k = k := by
  obtain ⟨hlife, hbusy⟩ := h
  simp [whenActive, hlife, hbusy]

@[simp] theorem pinOf?_val (p : Pin) : pinOf? p.val = some p := by simp [pinOf?]

/-- An operation on a pin of the block runs its body in an active idle block. -/
theorem runPinOp_of_canRun {s : State} (h : CanRun s) (op : OpName) (p : Pin) (body : Pin → State → State) :
    runPinOp op p.val body s = .next (finish (body p (beginOp op s))) := by
  rw [runPinOp, whenActive_of_canRun h, pinOf?_val]

/-! ## `READ` -/

/-- The barrier before the read changes nothing that the read draws from. -/
theorem readPin_eq (p : Pin) (s : State) :
    readPin p s =
      { s with trace := s.trace ++ [.bar, .rd (offsetOf s.cfg (.lev (bankOf p))) (levelNow s (bankOf p))]
               extIn := s.extIn.tail, draws := s.draws + 1 } := by
  simp only [readPin, readLev, barrier, emit, List.append_assoc]
  rfl

/-- Settles O14: the body is one barrier and one read, and what the read draws is what the accepted operation began with. -/
theorem readEffect : Obligations.ReadEffect := by
  unfold Obligations.ReadEffect
  intro p s h
  rw [exec, execRead, runPinOp_of_canRun h, readPinResult, readPin_eq]
  rfl

/-! ## `SET` -/

/-- `SET(p, level)` changes the pad of `p` alone, and that only where the block drives it (10 R25). -/
theorem pad_setDevice (c : Config) (p q : Pin) (lvl : Bool) (d : Device) :
    pad c (deviceWrite (if lvl then .set (bankOf p) else .clr (bankOf p)) (pinWord p) d) q =
      if q = p then (pad c d q).map (fun _ => lvl) else pad c d q := by
  simp only [pad, pinFunction, fieldOf_deviceWrite_latch, latchBit_setDevice]
  cases functionOf c (fieldOf d q) with
  | output => exact apply_ite some (q = p) lvl (latchBit d q)
  | input | alternate => exact (ite_self none).symm

/-- `SET` makes E fall exactly where it clears a driven, high E (45 R270). -/
theorem fallingE_setDevice (c : Config) (p : Pin) (lvl : Bool) (d : Device) :
    fallingE c d (deviceWrite (if lvl then .set (bankOf p) else .clr (bankOf p)) (pinWord p) d) = true ↔
      p = c.pins.e ∧ lvl = false ∧ pad c d p = some true := by
  rw [fallingE, pad_setDevice, Bool.and_eq_true, beq_iff_eq, beq_iff_eq]
  by_cases hp : c.pins.e = p
  · subst hp
    cases pad c d c.pins.e <;> simp [and_comm]
  · have hp' : ¬p = c.pins.e := fun h => hp h.symm
    simp only [hp, hp', if_false, false_and, iff_false]
    rintro ⟨hhigh, hlow⟩
    simp [hhigh] at hlow

/-- The bits of no pin (10 R22) are not written by `SET`. -/
theorem setDevice_pinless (p : Pin) (lvl : Bool) (d : Device) (j : Fin 2) :
    (deviceWrite (if lvl then .set (bankOf p) else .clr (bankOf p)) (pinWord p) d).outl[j] &&& ~~~(pinMask j) =
      d.outl[j] &&& ~~~(pinMask j) := by
  by_cases hj : j = bankOf p
  · subst hj
    apply BitVec.eq_of_getLsbD_eq
    intro i hi
    by_cases hbit : i = bitOf p
    · subst hbit
      simp [getLsbD_pinMask_bankOf]
    · cases lvl <;> simp [deviceWrite, getElem_pinWord, hbit, hi]
  · have hv : ¬(bankOf p).val = j.val := fun h => hj (Fin.ext h.symm)
    cases lvl <;> simp [deviceWrite, hv]

theorem setDevice_fsel (p : Pin) (lvl : Bool) (d : Device) :
    (deviceWrite (if lvl then .set (bankOf p) else .clr (bankOf p)) (pinWord p) d).fsel = d.fsel := by
  cases lvl <;> rfl

theorem setPin_latched_eq (p : Pin) (lvl : Bool) (s : State) :
    (setPin p lvl s).latched =
      if p = s.cfg.pins.e ∧ lvl = false ∧ pad s.cfg s.dev p = some true then
        s.latched ++ [latchOf s.cfg (setPin p lvl s).dev (Config.freeLevel s.draws)] else s.latched := by
  rw [setPin_latched, latchesOfWrite, if_congr (fallingE_setDevice s.cfg p lvl s.dev) rfl rfl]
  split <;> simp

/-- Settles O13, by the device after one write of the pin's bit and the pads it drives. -/
theorem setEffect : Obligations.SetEffect := by
  unfold Obligations.SetEffect
  intro p lvl s h
  refine ⟨_, runPinOp_of_canRun h .set p _, setPin_trace p lvl _, fun q => latchBit_setDevice p q lvl _, ?_,
    setDevice_fsel p lvl _, setPin_latched_eq p lvl _, rfl⟩
  exact setDevice_pinless p lvl s.dev 1

/-! ## `CONFIGURE` -/

/-- Where the block drives a pin, the pad is the latch bit (10 R25). -/
theorem latchBit_of_pad {c : Config} {d : Device} {p : Pin} {b : Bool} (h : pad c d p = some b) : latchBit d p = b := by
  unfold pad at h
  split at h <;> cases h
  rfl

/-- A function-select write makes no latch event: the latch bit of E stays (45 R274). -/
@[simp] theorem fallingE_deviceWrite_fsel (c : Config) (k : Fin 6) (v : Reg32) (d : Device) :
    fallingE c d (deviceWrite (.fsel k) v d) = false := by
  rw [← Bool.not_eq_true, fallingE, Bool.and_eq_true, beq_iff_eq, beq_iff_eq]
  rintro ⟨hhigh, hlow⟩
  have hlatch := latchBit_of_pad hlow
  rw [latchBit_deviceWrite_fsel, latchBit_of_pad hhigh] at hlatch
  cases hlatch

@[simp] theorem configureReg_trace (ps : List Pin) (dir : PinDirection) (s : State) (k : Fin 6) :
    (configureReg ps (codeOf s.cfg dir) s k).trace = s.trace ++ configureRegEvents s.cfg ps dir k s.dev.fsel[k] := by
  simp [configureReg, configureRegEvents]

@[simp] theorem configureReg_latched (ps : List Pin) (code : BitVec 3) (s : State) (k : Fin 6) :
    (configureReg ps code s k).latched = s.latched := by
  simp [configureReg, latchesOfWrite]

/-- Each of different registers is read as it was before the fold: none of the writes before its own is to it. -/
theorem configureRegs_trace (ps : List Pin) (dir : PinDirection) (ks : List (Fin 6)) (hks : ks.Nodup) (s : State) :
    (ks.foldl (configureReg ps (codeOf s.cfg dir)) s).trace =
      s.trace ++ ks.flatMap (fun k => configureRegEvents s.cfg ps dir k s.dev.fsel[k]) := by
  induction ks generalizing s with
  | nil => simp
  | cons j ks ih =>
    obtain ⟨hj, hks⟩ := List.nodup_cons.1 hks
    have hold : ∀ k ∈ ks, (configureReg ps (codeOf s.cfg dir) s j).dev.fsel[k] = s.dev.fsel[k] := by
      intro k hk
      rw [configureReg_fsel, if_neg (ne_of_mem_of_not_mem hk hj)]
    calc
      _ = (configureReg ps (codeOf s.cfg dir) s j).trace ++ ks.flatMap (fun k =>
            configureRegEvents s.cfg ps dir k (configureReg ps (codeOf s.cfg dir) s j).dev.fsel[k]) := ih hks _
      _ = _ := by
        rw [List.flatMap_congr fun k hk => congrArg _ (hold k hk)]
        simp

theorem configureRegs_latched (ps : List Pin) (code : BitVec 3) (ks : List (Fin 6)) (s : State) :
    (ks.foldl (configureReg ps code) s).latched = s.latched := by
  induction ks generalizing s with
  | nil => rfl
  | cons j ks ih => rw [List.foldl_cons, ih, configureReg_latched]

theorem configureRegs_now (ps : List Pin) (code : BitVec 3) (ks : List (Fin 6)) (s : State) :
    (ks.foldl (configureReg ps code) s).now = s.now := by
  induction ks generalizing s with
  | nil => rfl
  | cons j ks ih => exact ih _

/-- The events of `CONFIGURE`, with each old value as it was before the operation (40 R131). -/
theorem configurePins_trace (ps : List Pin) (dir : PinDirection) (s : State) :
    (configurePins ps dir s).trace = s.trace ++ configureEvents s.cfg s.dev ps dir := by
  have hregs := configureRegs_trace ps dir (touched ps) (List.Nodup.filter _ (by decide)) (barrier s)
  rw [barrier_cfg, barrier_dev, barrier_trace] at hregs
  rw [configurePins, barrier_trace, hregs, configureEvents]
  simp

@[simp] theorem configurePins_latched (ps : List Pin) (dir : PinDirection) (s : State) :
    (configurePins ps dir s).latched = s.latched :=
  configureRegs_latched ps (codeOf s.cfg dir) (touched ps) (barrier s)

@[simp] theorem configurePins_now (ps : List Pin) (dir : PinDirection) (s : State) :
    (configurePins ps dir s).now = s.now :=
  configureRegs_now ps (codeOf s.cfg dir) (touched ps) (barrier s)

/-- `CONFIGURE` writes the device, the trace and the count of draws, and nothing else (40 R131). -/
theorem configurePins_eq (ps : List Pin) (dir : PinDirection) (s : State) :
    configurePins ps dir s =
      { s with dev := (configurePins ps dir s).dev, trace := (configurePins ps dir s).trace,
               draws := (configurePins ps dir s).draws } := by
  have hframe := configurePins_frame ps dir s
  rwa [PinFrame, configurePins_latched, configurePins_now] at hframe

/-- A barrier before and after, and two events for each touched register. -/
theorem configureEvents_length (c : Config) (d : Device) (ps : List Pin) (dir : PinDirection) :
    (configureEvents c d ps dir).length = 2 + 2 * (touched ps).length := by
  simp only [configureEvents, configureRegEvents, List.cons_append, List.length_cons, List.length_append, List.length_flatMap,
    List.length_nil, List.map_const', List.sum_replicate, smul_eq_mul]
  omega

theorem mem_touched_iff {ps : List Pin} {k : Fin 6} : k ∈ touched ps ↔ ∃ p ∈ ps, p.val / 10 = k.val := by
  simp [mem_touched, fselReg, Fin.ext_iff]

theorem execConfigure_of_canRun {s : State} (h : CanRun s) {pins : List Nat} {ps : List Pin} (hps : pinsOf? pins = some ps)
    (dir : PinDirection) :
    execConfigure pins dir s = .next (finish (configurePins ps dir (beginOp .configure s))) := by
  rw [execConfigure, whenActive_of_canRun h, hps]

/-- Settles O11, by the fold over the touched registers, which are different. -/
theorem configureEffect : Obligations.ConfigureEffect := by
  unfold Obligations.ConfigureEffect
  intro pins ps dir s h hps
  refine ⟨_, execConfigure_of_canRun h hps dir, configurePins_trace ps dir _, configureEvents_length s.cfg s.dev ps dir,
    fun k => ?_, configurePins_outl ps dir _, ?_⟩
  · rw [finish_dev, configurePins_fsel]
    exact if_congr mem_touched_iff rfl rfl
  · rw [configurePins_eq]
    rfl

end Sys2Proof.Machine
end

section
/-!
PROOFS. The byte transfer (spec/41_lcd_transfer.md R161, R164, R165): what its events do to the device, event list by event list, how many
they are and how long they take, and from these what one `TRANSMIT` leaves.
-/

namespace Sys2Proof.Machine

/-! ## The pins of the display -/

theorem pins_nodup {c : Config} (h : c.valid = true) : c.pins.all.Nodup := by
  simp only [Config.valid, Bool.and_eq_true, decide_eq_true_eq] at h
  obtain ⟨⟨⟨⟨hpins, -⟩, -⟩, -⟩, -⟩ := h
  exact hpins

/-- The four data lines, D4 first (41 R164). -/
def dataLines (m : PinMap) : List Pin := [m.d4, m.d5, m.d6, m.d7]

/-- The pins a transfer writes (41 R163 to R165): RW is none of them. -/
def transferPins (m : PinMap) : List Pin := m.rs :: m.e :: dataLines m

theorem transferPins_nodup {c : Config} (h : c.valid = true) : (transferPins c.pins).Nodup := by
  have hpins := pins_nodup h
  simp only [PinMap.all, PinMap.outputs, List.cons_append, List.nil_append, List.nodup_cons, List.mem_cons, not_or] at hpins
  simp only [transferPins, dataLines, List.nodup_cons, List.mem_cons, not_or]
  tauto

theorem dpin_mem_dataLines (m : PinMap) (i : Nat) : dpin m i ∈ dataLines m := by
  unfold dpin
  split <;> simp [dataLines]

theorem rs_ne_e {c : Config} (h : c.valid = true) : c.pins.rs ≠ c.pins.e := fun heq =>
  (List.nodup_cons.1 (transferPins_nodup h)).1 (heq ▸ List.mem_cons_self)

theorem rs_not_mem_dataLines {c : Config} (h : c.valid = true) : c.pins.rs ∉ dataLines c.pins := fun hmem =>
  (List.nodup_cons.1 (transferPins_nodup h)).1 (List.mem_cons_of_mem _ hmem)

theorem e_not_mem_dataLines {c : Config} (h : c.valid = true) : c.pins.e ∉ dataLines c.pins :=
  (List.nodup_cons.1 (List.nodup_cons.1 (transferPins_nodup h)).2).1

theorem dataLines_nodup {c : Config} (h : c.valid = true) : (dataLines c.pins).Nodup :=
  (List.nodup_cons.1 (List.nodup_cons.1 (transferPins_nodup h)).2).2

/-! ## Events that write latch bits only -/

/-- Whatever the device is, the events change nothing in it but the latch bits of the pins `ps`. -/
structure WritesOnly (c : Config) (ps : List Pin) (es : List Event) : Prop where
  fsel (d : Device) : (replay c d es).fsel = d.fsel
  pinless (d : Device) (j : Fin 2) : (replay c d es).outl[j] &&& ~~~(pinMask j) = d.outl[j] &&& ~~~(pinMask j)
  latch (d : Device) {p : Pin} : p ∉ ps → latchBit (replay c d es) p = latchBit d p

variable {c : Config} {ps : List Pin} {es fs : List Event}

theorem WritesOnly.append (h : WritesOnly c ps es) (k : WritesOnly c ps fs) : WritesOnly c ps (es ++ fs) where
  fsel d := by rw [replay_append, k.fsel, h.fsel]
  pinless d j := by rw [replay_append, k.pinless, h.pinless]
  latch d p hp := by rw [replay_append, k.latch _ hp, h.latch _ hp]

theorem WritesOnly.mono {qs : List Pin} (h : WritesOnly c ps es) (hsub : ps ⊆ qs) : WritesOnly c qs es where
  fsel := h.fsel
  pinless := h.pinless
  latch d _ hp := h.latch d fun hmem => hp (hsub hmem)

theorem writesOnly_nil : WritesOnly c ps [] := ⟨fun _ => rfl, fun _ _ => rfl, fun _ _ _ => rfl⟩

theorem writesOnly_dly (w : Nat) : WritesOnly c ps [.dly w] := ⟨fun _ => rfl, fun _ _ => rfl, fun _ _ _ => rfl⟩

/-! ## The device after `SET`, `LOAD` and `LATCH` -/

theorem replay_setEvents (h : c.valid = true) (p : Pin) (lvl : Bool) (d : Device) :
    replay c d (setEvents c p lvl) = deviceWrite (if lvl then .set (bankOf p) else .clr (bankOf p)) (pinWord p) d := by
  simp [setEvents, replay, eventDevice, regAt_offsetOf c h]

theorem latchBit_replay_setEvents (h : c.valid = true) (p q : Pin) (lvl : Bool) (d : Device) :
    latchBit (replay c d (setEvents c p lvl)) q = if q = p then lvl else latchBit d q := by
  rw [replay_setEvents h, latchBit_setDevice]

theorem setEvents_writesOnly (h : c.valid = true) {p : Pin} (hp : p ∈ ps) (lvl : Bool) :
    WritesOnly c ps (setEvents c p lvl) where
  fsel d := by rw [replay_setEvents h, setDevice_fsel]
  pinless d j := by rw [replay_setEvents h, setDevice_pinless]
  latch d q hq := by rw [latchBit_replay_setEvents h, if_neg (ne_of_mem_of_not_mem hp hq).symm]

/-- A line is raised only where its bit is 1 (41 R164). -/
theorem latchBit_replay_raise (h : c.valid = true) (p q : Pin) (bit : Bool) (d : Device) :
    latchBit (replay c d (if bit then setEvents c p true else [])) q = if q = p ∧ bit = true then true else latchBit d q := by
  cases bit with
  | false => simp [replay]
  | true => simp [latchBit_replay_setEvents h]

theorem raise_writesOnly (h : c.valid = true) {p : Pin} (hp : p ∈ ps) (bit : Bool) :
    WritesOnly c ps (if bit then setEvents c p true else []) := by
  split
  · exact setEvents_writesOnly h hp true
  · exact writesOnly_nil

theorem loadEvents_writesOnly (h : c.valid = true) (n : Nibble) : WritesOnly c (dataLines c.pins) (loadEvents c n) := by
  have hclear (i : Nat) := setEvents_writesOnly h (dpin_mem_dataLines c.pins i) false
  have hraise (i : Nat) := raise_writesOnly h (dpin_mem_dataLines c.pins i) (n.getLsbD i)
  exact (((((((hclear 0).append (hclear 1)).append (hclear 2)).append (hclear 3)).append (hraise 0)).append
    (hraise 1)).append (hraise 2)).append (hraise 3)

/-- `LOAD(n)` leaves the nibble on the data lines: they are different pins, so no line is written after its own two turns. -/
theorem latchBit_replay_loadEvents (h : c.valid = true) (n : Nibble) (d : Device) {i : Nat} (hi : i < 4) :
    latchBit (replay c d (loadEvents c n)) (dpin c.pins i) = n.getLsbD i := by
  have hlines := dataLines_nodup h
  simp only [dataLines, List.nodup_cons, List.mem_cons, not_or] at hlines
  obtain ⟨⟨h45, h46, h47, -⟩, ⟨h56, h57, -⟩, ⟨h67, -⟩, -⟩ := hlines
  interval_cases i <;>
    simp [loadEvents, dpin, latchBit_replay_raise h, latchBit_replay_setEvents h, h45, h46, h47, h56, h57, h67, Ne.symm h45,
      Ne.symm h46, Ne.symm h47, Ne.symm h56, Ne.symm h57, Ne.symm h67]

theorem latchEvents_writesOnly (h : c.valid = true) : WritesOnly c [c.pins.e] (latchEvents c) := by
  have hwait : WritesOnly c [c.pins.e] [.dly 500] := writesOnly_dly 500
  have hset (lvl : Bool) := setEvents_writesOnly h (List.mem_singleton_self c.pins.e) lvl
  exact (hwait.append (hset true)).append ((hwait.append (hset false)).append hwait)

/-- `LATCH()` ends with E low (41 R165). -/
theorem latchBit_replay_latchEvents_e (h : c.valid = true) (d : Device) :
    latchBit (replay c d (latchEvents c)) c.pins.e = false := by
  have hsplit : latchEvents c =
      (.dly 500 :: setEvents c c.pins.e true ++ [.dly 500]) ++ setEvents c c.pins.e false ++ [.dly 500] := by
    simp [latchEvents]
  rw [hsplit, replay_append, replay_append, (writesOnly_dly (ps := []) 500).latch _ List.not_mem_nil,
    latchBit_replay_setEvents h, if_pos rfl]

/-! ## The device after `TRANSMIT` -/

theorem transmitEvents_writesOnly (h : c.valid = true) (b : Byte) (m : Mode) :
    WritesOnly c (transferPins c.pins) (transmitEvents c b m) := by
  have hmode : WritesOnly c (transferPins c.pins) (setEvents c c.pins.rs m.bit) := setEvents_writesOnly h List.mem_cons_self _
  have hload (n : Nibble) : WritesOnly c (transferPins c.pins) (loadEvents c n) :=
    (loadEvents_writesOnly h n).mono fun p hp => List.mem_cons_of_mem _ (List.mem_cons_of_mem _ hp)
  have hlatch : WritesOnly c (transferPins c.pins) (latchEvents c) := (latchEvents_writesOnly h).mono (by simp [transferPins])
  exact (((hmode.append (hload _)).append hlatch).append (hload _)).append hlatch

/-- RS is written first and by no later event (41 R163). -/
theorem latchBit_replay_transmitEvents_rs (h : c.valid = true) (b : Byte) (m : Mode) (d : Device) :
    latchBit (replay c d (transmitEvents c b m)) c.pins.rs = m.bit := by
  have he : c.pins.rs ∉ [c.pins.e] := mt List.mem_singleton.1 (rs_ne_e h)
  have hlines := rs_not_mem_dataLines h
  simp only [transmitEvents, replay_append]
  rw [(latchEvents_writesOnly h).latch _ he, (loadEvents_writesOnly h _).latch _ hlines,
    (latchEvents_writesOnly h).latch _ he, (loadEvents_writesOnly h _).latch _ hlines, latchBit_replay_setEvents h, if_pos rfl]

theorem latchBit_replay_transmitEvents_e (h : c.valid = true) (b : Byte) (m : Mode) (d : Device) :
    latchBit (replay c d (transmitEvents c b m)) c.pins.e = false := by
  rw [transmitEvents, replay_append, latchBit_replay_latchEvents_e h]

/-- The low nibble, loaded last, stays on the data lines (41 R161). -/
theorem latchBit_replay_transmitEvents_dpin (h : c.valid = true) (b : Byte) (m : Mode) (d : Device) {i : Nat} (hi : i < 4) :
    latchBit (replay c d (transmitEvents c b m)) (dpin c.pins i) = b.getLsbD i := by
  have he : dpin c.pins i ∉ [c.pins.e] :=
    mt List.mem_singleton.1 (ne_of_mem_of_not_mem (dpin_mem_dataLines c.pins i) (e_not_mem_dataLines h))
  calc
    _ = (lowNibble b).getLsbD i := by
      rw [transmitEvents, replay_append, (latchEvents_writesOnly h).latch _ he, replay_append, latchBit_replay_loadEvents h _ _ hi]
    _ = b.getLsbD i := by simp [lowNibble, hi]

/-! ## How many events a transfer appends, and how long they take -/

/-- Three events for each of the four clears, and three for each line raised (41 R164). -/
theorem loadEvents_length (c : Config) (n : Nibble) :
    (loadEvents c n).length = 12 + 3 * (List.range 4).countP (fun i => n.getLsbD i) := by
  simp only [loadEvents, List.length_append, apply_ite List.length, setEvents, List.length_cons, List.length_nil,
    List.range_succ, List.range_zero, List.countP_append, List.countP_nil, List.countP_singleton]
  split_ifs <;> rfl

/-- The ones of a byte are those of its two nibbles. -/
theorem popcount_eq_nibbles (b : Byte) :
    popcount b = (List.range 4).countP (fun i => (lowNibble b).getLsbD i) +
      (List.range 4).countP (fun i => (highNibble b).getLsbD i) := by
  have hlow : ∀ i ∈ List.range 4, b.getLsbD i = true ↔ (lowNibble b).getLsbD i = true := fun i hi => by
    simp [lowNibble, List.mem_range.1 hi]
  have hhigh : ∀ i ∈ List.range 4, b.getLsbD (4 + i) = true ↔ (highNibble b).getLsbD i = true := fun i hi => by
    simp [highNibble, List.mem_range.1 hi]
  calc
    popcount b = (List.range (4 + 4)).countP (fun i => b.getLsbD i) := rfl
    _ = _ := by
      rw [List.range_add, List.countP_append, List.countP_map, List.countP_congr hlow]
      exact congrArg _ (List.countP_congr hhigh)

theorem transmitEvents_length (c : Config) (b : Byte) (m : Mode) :
    (transmitEvents c b m).length = 3 * (13 + popcount b) + 6 := by
  have hset (p : Pin) (lvl : Bool) : (setEvents c p lvl).length = 3 := rfl
  have hlatch : (latchEvents c).length = 9 := rfl
  simp only [transmitEvents, List.length_append, hset, hlatch, loadEvents_length, popcount_eq_nibbles]
  omega

@[simp] theorem elapsed_setEvents (c : Config) (p : Pin) (lvl : Bool) : elapsed (setEvents c p lvl) = 0 := rfl

@[simp] theorem elapsed_loadEvents (c : Config) (n : Nibble) : elapsed (loadEvents c n) = 0 := by
  simp only [loadEvents, elapsed_append, apply_ite elapsed, elapsed_setEvents, elapsed, ite_self, Nat.add_zero]

@[simp] theorem elapsed_latchEvents (c : Config) : elapsed (latchEvents c) = 1500 := by
  simp [latchEvents, elapsed]

@[simp] theorem elapsed_transmitEvents (c : Config) (b : Byte) (m : Mode) : elapsed (transmitEvents c b m) = 3000 := by
  simp [transmitEvents]

/-! ## `TRANSMIT` -/

theorem runOp_of_canRun {s : State} (h : CanRun s) (op : OpName) (body : State → State) :
    runOp op body s = .next (finish (body (beginOp op s))) := by
  rw [runOp, whenActive_of_canRun h]

/-- Settles O22: the transfer accounts for its events, so the device it leaves is that of its events. -/
theorem transmitEffect : Obligations.TransmitEffect := by
  unfold Obligations.TransmitEffect
  refine ⟨fun b m s hlife => exec_of_inactive rfl hlife, fun b m s hvalid hrun => ?_⟩
  have hacc := transmitByte_accounted b m (beginOp .transmit s) rfl hvalid
  have hkeep := transmitEvents_writesOnly hvalid b m
  have hnow := hacc.now
  rw [beginOp_cfg, elapsed_transmitEvents] at hnow
  refine ⟨_, runOp_of_canRun hrun .transmit (transmitByte b m), hacc.trace, transmitEvents_length s.cfg b m, ?_, ?_, ?_, ?_, ?_, ?_,
    hnow, congrArg finish (transmitByte_frame b m _)⟩ <;> rw [finish_dev, hacc.dev]
  · exact latchBit_replay_transmitEvents_rs hvalid b m s.dev
  · exact latchBit_replay_transmitEvents_e hvalid b m s.dev
  · exact fun i hi => latchBit_replay_transmitEvents_dpin hvalid b m s.dev hi
  · exact fun p hp => hkeep.latch s.dev hp
  · exact hkeep.pinless s.dev 1
  · exact hkeep.fsel s.dev

end Sys2Proof.Machine
end

section
/-!
PROOFS. The receiver's view (spec/45_lcd_receiver.md R270 to R272): the latch events a list of events makes, and the two nibbles of
each byte sent to a driven display.
-/

namespace Sys2Proof.Machine

variable {c : Config} {d : Device} {es fs : List Event} {ls ms : List Latch}

/-! ## The latch events a list of events makes -/

/-- The list of events makes exactly the latch events `ls`, whatever the free bits of their samples are (45 R270). -/
def Shows (c : Config) (d : Device) (es : List Event) (ls : List Latch) : Prop :=
  List.Forall₂ (fun l d' => ∀ free : BitVec 64, latchOf c d' free = l) ls (latchDevices c d es)

theorem shows_nil_iff : Shows c d es [] ↔ latchDevices c d es = [] := List.forall₂_nil_left_iff

theorem Shows.append (h : Shows c d es ls) (k : Shows c (replay c d es) fs ms) : Shows c d (es ++ fs) (ls ++ ms) := by
  rw [Shows, latchDevices_append]
  exact List.rel_append h k

/-- Samples of what a list of events shows are what it shows. -/
theorem Shows.eq_of_samples (h : Shows c d es ls) (k : List.Forall₂ (Samples c) ms (latchDevices c d es)) : ms = ls := by
  rw [Shows] at h
  generalize latchDevices c d es = ds at h k
  induction h generalizing ms with
  | nil => exact List.forall₂_nil_right_iff.1 k
  | cons hl _ ih =>
    obtain ⟨_, _, ⟨free, rfl⟩, hrest, rfl⟩ := List.forall₂_cons_right_iff.1 k
    rw [hl, ih hrest]

theorem Accounted.latched_eq {s t : State} (h : Accounted c s t es) (k : Shows c s.dev es ls) :
    t.latched = s.latched ++ ls := by
  obtain ⟨ms, hms, hsamples⟩ := h.latched
  rw [hms, k.eq_of_samples hsamples]

/-! ## The nibbles of a byte -/

/-- The block drives the seven pins of the display. -/
def DisplayDriven (c : Config) (d : Device) : Prop := ∀ p ∈ c.pins.lcd, pinFunction c d p = .output

theorem lcdDriven_iff {s : State} : LcdDriven s ↔ DisplayDriven s.cfg s.dev := Iff.rfl

/-- Events that write latch bits only leave the pins' functions. -/
theorem DisplayDriven.replay {ps : List Pin} (h : DisplayDriven c d) (hes : WritesOnly c ps es) :
    DisplayDriven c (replay c d es) := by
  intro p hp
  rw [← h p hp, pinFunction, pinFunction, fieldOf, fieldOf, hes.fsel]

theorem DisplayDriven.pad_eq (h : DisplayDriven c d) {p : Pin} (hp : p ∈ c.pins.lcd) : pad c d p = some (latchBit d p) := by
  rw [pad, h p hp]

theorem DisplayDriven.padOrFree_eq (h : DisplayDriven c d) {p : Pin} (hp : p ∈ c.pins.lcd) (free : BitVec 64) :
    padOrFree c d free p = latchBit d p := by
  rw [padOrFree, h.pad_eq hp, Option.getD_some]

theorem dpin_mem_lcd (m : PinMap) (i : Nat) : dpin m i ∈ m.lcd := by
  unfold dpin
  split <;> simp [PinMap.lcd]

theorem getLsbD_bitsOf (f : Nat → Bool) {n i : Nat} (hi : i < n) : (bitsOf f n).getLsbD i = f i := by
  induction n with
  | zero => omega
  | succ n ih =>
    rw [bitsOf, BitVec.getLsbD_cons]
    split
    · next heq => rw [heq]
    · exact ih (by omega)

/-- Where the display is driven a sample holds the latch bits, and no free bit. -/
theorem DisplayDriven.latchOf_eq (h : DisplayDriven c d) {n : Nibble} (hn : ∀ i < 4, latchBit d (dpin c.pins i) = n.getLsbD i)
    (free : BitVec 64) : latchOf c d free = ⟨latchBit d c.pins.rs, latchBit d c.pins.rw, n⟩ := by
  have hnibble : bitsOf (fun i => padOrFree c d free (dpin c.pins i)) 4 = n := by
    refine BitVec.eq_of_getLsbD_eq fun i hi => ?_
    rw [getLsbD_bitsOf _ hi, h.padOrFree_eq (dpin_mem_lcd c.pins i), hn i hi]
  rw [latchOf, h.padOrFree_eq (by simp [PinMap.lcd]), h.padOrFree_eq (by simp [PinMap.lcd]), hnibble]

theorem latchDevices_setEvents (h : c.valid = true) (p : Pin) (lvl : Bool) (d : Device) :
    latchDevices c d (setEvents c p lvl) =
      if p = c.pins.e ∧ lvl = false ∧ pad c d p = some true then [replay c d (setEvents c p lvl)] else [] := by
  rw [replay_setEvents h, ← if_congr (fallingE_setDevice c p lvl d) rfl rfl]
  simp only [setEvents, latchDevices, eventDevice, regAt_offsetOf c h]

/-- Only a write of E makes a latch event. -/
theorem setEvents_shows (h : c.valid = true) {p : Pin} (hp : p ≠ c.pins.e) (lvl : Bool) (d : Device) :
    Shows c d (setEvents c p lvl) [] := by
  rw [shows_nil_iff, latchDevices_setEvents h, if_neg fun hfall => hp hfall.1]

theorem dpin_ne_e (h : c.valid = true) (i : Nat) : dpin c.pins i ≠ c.pins.e :=
  ne_of_mem_of_not_mem (dpin_mem_dataLines c.pins i) (e_not_mem_dataLines h)

theorem loadEvents_shows (h : c.valid = true) (n : Nibble) (d : Device) : Shows c d (loadEvents c n) [] := by
  have hclear (i : Nat) (d : Device) : Shows c d (setEvents c (dpin c.pins i) false) [] :=
    setEvents_shows h (dpin_ne_e h i) false d
  have hraise (i : Nat) (d : Device) : Shows c d (if n.getLsbD i then setEvents c (dpin c.pins i) true else []) [] := by
    split
    · exact setEvents_shows h (dpin_ne_e h i) true d
    · exact .nil
  exact (((((((hclear 0 d).append (hclear 1 _)).append (hclear 2 _)).append (hclear 3 _)).append (hraise 0 _)).append
    (hraise 1 _)).append (hraise 2 _)).append (hraise 3 _)

theorem rw_not_mem_transferPins (h : c.valid = true) : c.pins.rw ∉ transferPins c.pins := by
  have hpins := pins_nodup h
  simp only [PinMap.all, PinMap.outputs, List.cons_append, List.nil_append, List.nodup_cons, List.mem_cons, not_or] at hpins
  simp only [transferPins, dataLines, List.mem_cons, not_or]
  tauto

/-- `LATCH()` makes E fall once, whatever the level of E was (41 R165). -/
theorem latchDevices_latchEvents (h : c.valid = true) (hd : DisplayDriven c d) :
    latchDevices c d (latchEvents c) = [replay c d (latchEvents c)] := by
  have he : c.pins.e ∈ c.pins.lcd := by simp [PinMap.lcd]
  have hraised : pad c (replay c d (setEvents c c.pins.e true)) c.pins.e = some true := by
    rw [replay_setEvents h, pad_setDevice, if_pos rfl, hd.pad_eq he, Option.map_some]
  calc
    _ = latchDevices c d (setEvents c c.pins.e true ++ setEvents c c.pins.e false) := rfl
    _ = [replay c (replay c d (setEvents c c.pins.e true)) (setEvents c c.pins.e false)] := by
      rw [latchDevices_append, latchDevices_setEvents h, latchDevices_setEvents h, if_neg (by simp), if_pos ⟨rfl, rfl, hraised⟩]
      rfl

/-- The latch event of `LATCH()` is of the lines as it finds them (45 R271). -/
theorem latchEvents_shows (h : c.valid = true) (hd : DisplayDriven c d) {n : Nibble}
    (hn : ∀ i < 4, latchBit d (dpin c.pins i) = n.getLsbD i) :
    Shows c d (latchEvents c) [⟨latchBit d c.pins.rs, latchBit d c.pins.rw, n⟩] := by
  have hkeep {p : Pin} (hp : p ≠ c.pins.e) : latchBit (replay c d (latchEvents c)) p = latchBit d p :=
    (latchEvents_writesOnly h).latch d (mt List.mem_singleton.1 hp)
  have hrw : c.pins.rw ≠ c.pins.e := fun heq => rw_not_mem_transferPins h (heq ▸ by simp [transferPins])
  have hdriven := hd.replay (latchEvents_writesOnly h)
  rw [Shows, latchDevices_latchEvents h hd, ← hkeep (rs_ne_e h), ← hkeep hrw]
  exact .cons (hdriven.latchOf_eq fun i hi => (hkeep (dpin_ne_e h i)).trans (hn i hi)) .nil

/-- The pins `LOAD(n); LATCH()` writes. -/
theorem nibble_writesOnly (h : c.valid = true) (n : Nibble) :
    WritesOnly c (c.pins.e :: dataLines c.pins) (loadEvents c n ++ latchEvents c) :=
  ((loadEvents_writesOnly h n).mono (List.subset_cons_self _ _)).append
    ((latchEvents_writesOnly h).mono (List.cons_subset_cons _ (List.nil_subset _)))

/-- `LOAD(n); LATCH()` shows the nibble, with RS and RW as they are. -/
theorem nibble_shows (h : c.valid = true) (hd : DisplayDriven c d) (n : Nibble) :
    Shows c d (loadEvents c n ++ latchEvents c) [⟨latchBit d c.pins.rs, latchBit d c.pins.rw, n⟩] := by
  have hload := loadEvents_writesOnly h n
  have hrw : c.pins.rw ∉ dataLines c.pins := fun hmem => rw_not_mem_transferPins h (by simp [transferPins, hmem])
  rw [← hload.latch d (rs_not_mem_dataLines h), ← hload.latch d hrw]
  exact (loadEvents_shows h n d).append
    (latchEvents_shows h (hd.replay hload) fun i hi => latchBit_replay_loadEvents h n d hi)

/-- What one byte contributes to the receiver's view: its high nibble, then its low one, with RS at the mode (45 R271). -/
theorem transmitEvents_shows (h : c.valid = true) (hd : DisplayDriven c d) (b : Byte) (m : Mode) :
    Shows c d (transmitEvents c b m) (byteLatches (latchBit d c.pins.rw) m b) := by
  have hmode := setEvents_writesOnly h (List.mem_singleton_self c.pins.rs) m.bit
  have hhigh := nibble_writesOnly h (highNibble b)
  have hd1 := hd.replay hmode
  have hrs : c.pins.rs ∉ c.pins.e :: dataLines c.pins := (List.nodup_cons.1 (transferPins_nodup h)).1
  have hrw := rw_not_mem_transferPins h
  rw [transferPins, List.mem_cons, not_or] at hrw
  obtain ⟨hrw_rs, hrw_rest⟩ := hrw
  have hshow_high := nibble_shows h hd1 (highNibble b)
  have hshow_low := nibble_shows h (hd1.replay hhigh) (lowNibble b)
  rw [hhigh.latch _ hrs, hhigh.latch _ hrw_rest] at hshow_low
  rw [latchBit_replay_setEvents h, if_pos rfl, hmode.latch d (mt List.mem_singleton.1 hrw_rs)] at hshow_high hshow_low
  have hsplit : transmitEvents c b m = setEvents c c.pins.rs m.bit ++
      ((loadEvents c (highNibble b) ++ latchEvents c) ++ (loadEvents c (lowNibble b) ++ latchEvents c)) := by
    simp only [transmitEvents, List.append_assoc]
  rw [hsplit]
  exact (setEvents_shows h (rs_ne_e h) m.bit d).append (hshow_high.append hshow_low)

/-- Bytes sent one after another in one mode contribute their nibbles in order (45 R272). -/
theorem transmits_shows (h : c.valid = true) (m : Mode) (bs : List Byte) (hd : DisplayDriven c d) :
    Shows c d (bs.flatMap fun b => transmitEvents c b m) (bs.flatMap (byteLatches (latchBit d c.pins.rw) m)) := by
  induction bs generalizing d with
  | nil => exact .nil
  | cons b bs ih =>
    have hkeep := transmitEvents_writesOnly h b m
    have hrest := ih (hd.replay hkeep)
    rw [hkeep.latch d (rw_not_mem_transferPins h)] at hrest
    exact (transmitEvents_shows h hd b m).append hrest

end Sys2Proof.Machine
end

section
/-!
PROOFS. `INIT` (spec/42_lcd_sequences.md R190, R191): the events of its six bytes, how many of each kind and how long they take, the
latch events they make, and the levels they leave.
-/

namespace Sys2Proof.Machine

variable {c : Config} {d : Device} {es : List Event}

/-! ## The events of `INIT` -/

theorem initEvents_eq (c : Config) :
    initEvents c = initSeq.toList.flatMap (fun b => transmitEvents c b .command) ++ [Event.dly 500] := by
  simp [initEvents, initSeq]

theorem initLatches_eq (rw : Bool) : initLatches rw = initSeq.toList.flatMap (byteLatches rw .command) := rfl

theorem initEvents_shows (h : c.valid = true) (hd : DisplayDriven c d) :
    Shows c d (initEvents c) (initLatches (latchBit d c.pins.rw)) := by
  have hbytes := transmits_shows h .command initSeq.toList hd
  have hwait : Shows c (replay c d (initSeq.toList.flatMap fun b => transmitEvents c b .command)) [.dly 500] [] := .nil
  rw [initEvents_eq, initLatches_eq, ← List.append_nil (List.flatMap (byteLatches _ _) _)]
  exact hbytes.append hwait

theorem elapsed_initEvents (c : Config) : elapsed (initEvents c) = 18500 := by
  simp [initEvents, elapsed]

/-! ### How many events of a kind

A kind is a predicate that does not look at what a write writes; so 42 R191's counts, and the length, are one count. -/

theorem countP_one (P : Event → Bool) (e : Event) : [e].countP P = (P e).toNat := by
  rw [List.countP_singleton]
  cases P e <;> rfl

section
variable {P : Event → Bool} {isWr : Bool} (hwr : ∀ off v, P (.wr off v) = isWr)
include hwr

theorem countP_setEvents (c : Config) (p : Pin) (lvl : Bool) :
    (setEvents c p lvl).countP P = isWr.toNat + 2 * (P .bar).toNat := by
  simp only [setEvents, List.countP_cons, hwr, List.countP_nil]
  cases isWr <;> cases P .bar <;> rfl

theorem countP_loadEvents (c : Config) (n : Nibble) :
    (loadEvents c n).countP P =
      (4 + (List.range 4).countP (fun i => n.getLsbD i)) * (isWr.toNat + 2 * (P .bar).toNat) := by
  simp only [loadEvents, List.countP_append, apply_ite (List.countP P), countP_setEvents hwr, List.countP_nil,
    List.range_succ, List.range_zero, List.countP_singleton]
  split_ifs <;> ring

theorem countP_latchEvents (c : Config) :
    (latchEvents c).countP P = 2 * (isWr.toNat + 2 * (P .bar).toNat) + 3 * (P (.dly 500)).toNat := by
  have hsplit : latchEvents c =
      [Event.dly 500] ++ setEvents c c.pins.e true ++ [Event.dly 500] ++ setEvents c c.pins.e false ++ [Event.dly 500] := rfl
  rw [hsplit]
  simp only [List.countP_append, countP_setEvents hwr, countP_one]
  ring

theorem countP_transmitEvents (c : Config) (b : Byte) (m : Mode) :
    (transmitEvents c b m).countP P =
      (13 + popcount b) * (isWr.toNat + 2 * (P .bar).toNat) + 6 * (P (.dly 500)).toNat := by
  simp only [transmitEvents, List.countP_append, countP_setEvents hwr, countP_loadEvents hwr, countP_latchEvents hwr,
    popcount_eq_nibbles]
  ring

theorem countP_initEvents (c : Config) :
    (initEvents c).countP P = 92 * (isWr.toNat + 2 * (P .bar).toNat) + 37 * (P (.dly 500)).toNat := by
  have hones : [popcount 0x33, popcount 0x32, popcount 0x06, popcount 0x0C, popcount 0x01] = [4, 3, 2, 2, 1] := by decide
  simp only [List.cons.injEq, and_true] at hones
  obtain ⟨h33, h32, h06, h0C, h01⟩ := hones
  simp only [initEvents, List.countP_append, countP_transmitEvents hwr, countP_one, h33, h32, h06, h0C, h01]
  ring

end

/-! ## The loop of `INIT` -/

theorem startInit_accounted (s : State) (hc : s.cfg = c) : Accounted c s (startInit s) [] :=
  .of_eq hc rfl rfl rfl rfl rfl rfl

theorem nextInit_accounted (s : State) (hc : s.cfg = c) : Accounted c s (nextInit s) [] :=
  .of_eq hc rfl rfl rfl rfl rfl rfl

theorem setReady_accounted (b : Bool) (s : State) (hc : s.cfg = c) : Accounted c s (setReady b s) [] :=
  .of_eq hc rfl rfl rfl rfl rfl rfl

theorem transmitByte_initIdx (b : Byte) (m : Mode) (s : State) : (transmitByte b m s).initIdx = s.initIdx := by
  obtain ⟨-, -, -, -, -, -, -, hidx, -⟩ := (transmitByte_frame b m s).fields
  exact hidx

/-- Each turn of the loop sends the byte at `INITIDX` and passes to the next (42 R190). -/
theorem initLoop_accounted (h : c.valid = true) (k : Nat) :
    ∀ s : State, s.cfg = c → s.initIdx + k ≤ 6 →
      Accounted c s (initLoop k s)
        (((initSeq.toList.drop s.initIdx).take k).flatMap fun b => transmitEvents c b .command) := by
  induction k with
  | zero => exact fun s hc _ => Accounted.refl s hc
  | succ k ih =>
    intro s hc hk
    have hidx : s.initIdx < initSeq.toList.length := by simp; omega
    have hbyte : initSeq.toList[s.initIdx] = initByte s.initIdx := by
      simp [initByte, cellAt, show s.initIdx < 6 by omega]
    have hturn := transmitByte_accounted (initByte s.initIdx) .command s hc h
    have hnext := hturn.trans (nextInit_accounted _ hturn.cfg)
    have hidx_next : (nextInit (transmitByte (initByte s.initIdx) .command s)).initIdx = s.initIdx + 1 := by
      rw [nextInit_initIdx, transmitByte_initIdx]
    have hrest := hnext.trans (ih _ hnext.cfg (by omega))
    rw [hidx_next, List.append_nil] at hrest
    rwa [initLoop, if_pos (by omega), List.drop_eq_getElem_cons hidx, hbyte, List.take_succ_cons, List.flatMap_cons]

theorem initBody_accounted (h : c.valid = true) (s : State) (hc : s.cfg = c) :
    Accounted c s (initBody s) (initEvents c) := by
  have hstart := startInit_accounted s hc
  have hloop := hstart.trans (initLoop_accounted h 6 (startInit s) hstart.cfg (by simp))
  have hwait := hloop.trans (delay_accounted tPostClearSettle _ hloop.cfg)
  have hready := hwait.trans (setReady_accounted true _ hwait.cfg)
  rw [List.append_nil] at hready
  rw [initEvents_eq]
  exact hready

/-- A whole operation accounts for what its body does: its beginning and its end touch nothing accounted. -/
theorem runOp_accounted {s : State} (hrun : CanRun s) (op : OpName) {body : State → State}
    (hbody : Accounted c (beginOp op s) (body (beginOp op s)) es) :
    ∃ t : State, runOp op body s = .next t ∧ Accounted c s t es := by
  have hbegin : Accounted c s (beginOp op s) [] := .of_eq hbody.start rfl rfl rfl rfl rfl rfl
  have hend : Accounted c (body (beginOp op s)) (finish (body (beginOp op s))) [] := .of_eq hbody.cfg rfl rfl rfl rfl rfl rfl
  have hall := (hbegin.trans hbody).trans hend
  rw [List.nil_append, List.append_nil] at hall
  exact ⟨_, runOp_of_canRun hrun op body, hall⟩

/-- The device `INIT` leaves is the one its last byte, 0x01, leaves. -/
theorem replay_initEvents (c : Config) (d : Device) :
    ∃ d' : Device, replay c d (initEvents c) = replay c d' (transmitEvents c 0x01 .command) := by
  have hwait (d₁ : Device) : replay c d₁ [.dly 500] = d₁ := rfl
  rw [initEvents, replay_append, replay_append, hwait]
  exact ⟨_, rfl⟩

theorem latchBit_replay_initEvents_rs (h : c.valid = true) (d : Device) :
    latchBit (replay c d (initEvents c)) c.pins.rs = false := by
  obtain ⟨d', hd'⟩ := replay_initEvents c d
  rw [hd', latchBit_replay_transmitEvents_rs h]
  rfl

theorem latchBit_replay_initEvents_e (h : c.valid = true) (d : Device) :
    latchBit (replay c d (initEvents c)) c.pins.e = false := by
  obtain ⟨d', hd'⟩ := replay_initEvents c d
  rw [hd', latchBit_replay_transmitEvents_e h]

theorem latchBit_replay_initEvents_dpin (h : c.valid = true) (d : Device) {i : Nat} (hi : i < 4) :
    latchBit (replay c d (initEvents c)) (dpin c.pins i) = (0x01 : Byte).getLsbD i := by
  obtain ⟨d', hd'⟩ := replay_initEvents c d
  rw [hd', latchBit_replay_transmitEvents_dpin h _ _ _ hi]

/-- Settles O27: the body of `INIT` accounts for the events of its bytes, so what it adds and leaves is counted on those. -/
theorem initTotals : Obligations.InitTotals := by
  unfold Obligations.InitTotals
  intro s hvalid hrun
  obtain ⟨t, hexec, hacc⟩ := runOp_accounted hrun .init (initBody_accounted hvalid (beginOp .init s) rfl)
  have hlength := countP_initEvents (P := fun _ => true) (isWr := true) (fun _ _ => rfl) s.cfg
  rw [List.countP_true] at hlength
  have hline {i : Nat} (hi : i < 4) := latchBit_replay_initEvents_dpin hvalid s.dev hi
  refine ⟨t, initEvents s.cfg, hexec, hacc.trace, rfl, hlength,
    countP_initEvents (isWr := true) (fun _ _ => rfl) s.cfg, countP_initEvents (isWr := false) (fun _ _ => rfl) s.cfg,
    countP_initEvents (isWr := false) (fun _ _ => rfl) s.cfg, countP_initEvents (isWr := false) (fun _ _ => rfl) s.cfg,
    elapsed_initEvents s.cfg ▸ hacc.now, fun hd => hacc.latched_eq (initEvents_shows hvalid (lcdDriven_iff.1 hd)), ?_⟩
  rw [hacc.dev]
  exact ⟨latchBit_replay_initEvents_rs hvalid s.dev, latchBit_replay_initEvents_e hvalid s.dev, hline (i := 0) (by decide),
    hline (i := 1) (by decide), hline (i := 2) (by decide), hline (i := 3) (by decide)⟩

end Sys2Proof.Machine
end

section
/-!
PROOFS. The facade (spec/43_facade.md R221, R222): `BUTTON_READ` is `READ` of its pin; `CONFIGURE_ALL` accounts for the
events of its two calls of `CONFIGURE`, and leaves eight outputs and one input.
-/

namespace Sys2Proof.Machine

variable {c : Config}

/-! ## `BUTTON_READ` -/

/-- `BUTTON_READ` differs from `READ` of the button pin in the name of the operation in progress only, which its end drops. -/
theorem exec_buttonRead (s : State) : exec .buttonRead s = exec (.read s.cfg.pins.button.val) s := by
  simp only [exec, execButtonRead, execRead, runOp, runPinOp, pinOf?_val]
  rfl

theorem bankOf_mul_add_bitOf (p : Pin) : 32 * (bankOf p).val + bitOf p = p.val := Nat.div_add_mod p.val 32

/-- The bit of a pin in the level word of its bank is the pin's level (20 R68). -/
theorem getLsbD_levelNow (s : State) (p : Pin) :
    (levelNow s (bankOf p)).getLsbD (bitOf p) = level s.cfg s.dev (extNow s) (Config.freeLevel s.draws) p := by
  have hbit : bitOf p < 32 := Nat.mod_lt _ (by decide)
  rw [levelNow, levelWord, getLsbD_bitsOf _ hbit, levelBit, bankOf_mul_add_bitOf, pinOf?_val]

/-- Settles O31, by `READ` of the button pin. -/
theorem buttonReadEffect : Obligations.ButtonReadEffect := by
  unfold Obligations.ButtonReadEffect
  intro s h
  have hread := readEffect s.cfg.pins.button s h
  refine ⟨_, (exec_buttonRead s).trans hread, hread, rfl, rfl, fun hinput => ?_, rfl⟩
  have hlevel := getLsbD_levelNow s s.cfg.pins.button
  rw [level, hinput] at hlevel
  exact congrArg Result.level hlevel

/-! ## `CONFIGURE_ALL` -/

theorem configureRegs_accounted (h : c.valid = true) (ps : List Pin) (dir : PinDirection) (ks : List (Fin 6)) (hks : ks.Nodup) :
    ∀ s : State, s.cfg = c → Accounted c s (ks.foldl (configureReg ps (codeOf c dir)) s)
      (ks.flatMap fun k => configureRegEvents c ps dir k s.dev.fsel[k]) := by
  induction ks with
  | nil => exact Accounted.refl
  | cons j ks ih =>
    intro s hc
    obtain ⟨hj, hks⟩ := List.nodup_cons.1 hks
    have hold : ∀ k ∈ ks, configureRegEvents c ps dir k (configureReg ps (codeOf c dir) s j).dev.fsel[k] =
        configureRegEvents c ps dir k s.dev.fsel[k] := fun k hk => by
      rw [configureReg_fsel, if_neg (ne_of_mem_of_not_mem hk hj)]
    have hreg := configureReg_accounted ps (codeOf c dir) s j hc h
    have hrest := ih hks _ hreg.cfg
    rw [List.flatMap_congr hold] at hrest
    exact hreg.trans hrest

theorem configurePins_accounted (h : c.valid = true) (ps : List Pin) (dir : PinDirection) (s : State) (hc : s.cfg = c) :
    Accounted c s (configurePins ps dir s) (configureEvents c s.dev ps dir) := by
  subst hc
  have hbar := barrier_accounted s rfl
  have hregs := hbar.trans (configureRegs_accounted h ps dir (touched ps) (List.Nodup.filter _ (by decide)) _ hbar.cfg)
  exact hregs.trans (barrier_accounted _ hregs.cfg)

theorem configureRegs_dev (ps : List Pin) (code : BitVec 3) (ks : List (Fin 6)) (s : State) :
    (ks.foldl (configureReg ps code) s).dev =
      { s.dev with fsel := ks.foldl (fun v (k : Fin 6) => v.set k (assembled code k ps v[k])) s.dev.fsel } := by
  induction ks generalizing s with
  | nil => rfl
  | cons k ks ih => exact ih _

theorem configurePins_dev (ps : List Pin) (dir : PinDirection) (s : State) :
    (configurePins ps dir s).dev = configuredDevice s.cfg s.dev ps dir :=
  configureRegs_dev ps (codeOf s.cfg dir) (touched ps) (barrier s)

theorem configureAllBody_accounted (h : c.valid = true) (s : State) (hc : s.cfg = c) :
    Accounted c s (configureAllBody s) (configureAllEvents c s.dev) := by
  subst hc
  have hout := configurePins_accounted h s.cfg.pins.outputs .output s rfl
  have hall := hout.trans (configurePins_accounted h [s.cfg.pins.button] .input _ hout.cfg)
  rwa [configurePins_dev] at hall

@[simp] theorem configureAllBody_latched (s : State) : (configureAllBody s).latched = s.latched := by
  simp [configureAllBody]

@[simp] theorem configureAllBody_now (s : State) : (configureAllBody s).now = s.now := by
  simp [configureAllBody]

/-- `CONFIGURE_ALL` writes the device, the trace and the count of draws, and nothing else (43 R222). -/
theorem configureAllBody_eq (s : State) :
    configureAllBody s =
      { s with dev := (configureAllBody s).dev, trace := (configureAllBody s).trace, draws := (configureAllBody s).draws } := by
  have hframe := configureAllBody_frame s
  rwa [PinFrame, configureAllBody_latched, configureAllBody_now] at hframe

theorem fieldOf_configureAllBody_output {s : State} (h : s.cfg.valid = true) {p : Pin} (hp : p ∈ s.cfg.pins.outputs) :
    fieldOf (configureAllBody s).dev p = s.cfg.fselOutput := by
  have hbutton : p ≠ s.cfg.pins.button := ne_of_mem_of_not_mem hp (button_not_mem_outputs h)
  rw [configureAllBody, fieldOf_configurePins_of_not_mem (mt List.mem_singleton.1 hbutton), fieldOf_configurePins_of_mem hp]
  rfl

theorem fieldOf_configureAllBody_button (s : State) : fieldOf (configureAllBody s).dev s.cfg.pins.button = fselInputCode := by
  rw [configureAllBody, fieldOf_configurePins_of_mem (List.mem_singleton_self _)]
  rfl

/-- One pin touches one register. -/
theorem touched_singleton (p : Pin) : touched [p] = [fselReg p] := by
  simp only [touched, List.any_cons, List.any_nil, Bool.or_false]
  generalize fselReg p = k
  revert k
  decide

theorem touched_length_pos {ps : List Pin} {p : Pin} (hp : p ∈ ps) : 1 ≤ (touched ps).length :=
  List.length_pos_of_mem (mem_touched.2 ⟨p, hp, rfl⟩)

theorem touched_length_le (ps : List Pin) : (touched ps).length ≤ 6 := List.length_filter_le _ _

theorem configureAllEvents_length (c : Config) (d : Device) :
    (configureAllEvents c d).length = 2 + 2 * (touched c.pins.outputs).length + 4 := by
  rw [configureAllEvents, List.length_append, configureEvents_length, configureEvents_length, touched_singleton]
  rfl

/-- Settles O32, by the two `CONFIGURE`s of the body: the button, configured last, is none of the outputs. -/
theorem configureAllEffect : Obligations.ConfigureAllEffect := by
  unfold Obligations.ConfigureAllEffect
  intro s hvalid hrun
  refine ⟨_, runOp_of_canRun hrun .configureAll configureAllBody, ?_, configureAllEvents_length s.cfg s.dev, ?_,
    touched_length_le _, fun p hp => ?_, ?_, fun k i hout => ?_, ?_, ?_⟩
  · exact (configureAllBody_accounted hvalid (beginOp .configureAll s) rfl).trace
  · exact touched_length_pos (p := s.cfg.pins.led) (by simp [PinMap.outputs])
  · exact fieldOf_configureAllBody_output (s := beginOp .configureAll s) hvalid hp
  · exact fieldOf_configureAllBody_button (beginOp .configureAll s)
  · refine getLsbD_configureAllBody_of_outside (s := beginOp .configureAll s) fun p hp hf => ?_
    obtain ⟨hreg, hbits⟩ := (inField_iff p k i).1 hf
    exact hout p hp hreg hbits
  · exact configureAllBody_outl (beginOp .configureAll s)
  · rw [configureAllBody_eq]
    rfl

end Sys2Proof.Machine
end

section
/-!
PROOFS. The loop of `WRITE_TEXT` (spec/42_lcd_sequences.md R195): the snapshot holds the text, and the loop accounts for the events of
its bytes.
-/

namespace Sys2Proof.Machine

variable {c : Config}

/-- Bytes written from cell `i` on stand there in order, between the cells kept. -/
theorem writeCells_toList {n : Nat} (bs : List Byte) : ∀ (v : Vector Byte n) (i : Nat), i + bs.length ≤ n →
    (writeCells v i bs).toList = v.toList.take i ++ bs ++ v.toList.drop (i + bs.length) := by
  induction bs with
  | nil => intro v i _; simp [writeCells]
  | cons b bs ih =>
    intro v i hi
    rw [List.length_cons] at hi
    have hlen : i < v.toList.length := by simp; omega
    rw [writeCells, ih _ _ (by omega), Vector.toList_setIfInBounds, List.take_add_one, List.take_set_of_le le_rfl,
      List.getElem?_set_self hlen, List.drop_set_of_lt (by omega), List.length_cons, Nat.add_right_comm i 1]
    simp [Nat.add_assoc]

/-- A snapshot holds the text in its first cells (42 R195). -/
theorem loadText_txt_take (text : List Byte) (s : State) (h : text.length ≤ maxText) :
    (loadText text s).txt.toList.take text.length = text := by
  rw [loadText_txt, writeCells_toList _ _ _ (by simpa [maxText] using h)]
  simp

theorem nextText_accounted (s : State) (hc : s.cfg = c) : Accounted c s (nextText s) [] :=
  .of_eq hc rfl rfl rfl rfl rfl rfl

/-- Each turn of the loop sends the byte at `IDX` and passes to the next, until `IDX` is `CNT` (42 R195). -/
theorem textLoop_accounted (h : c.valid = true) (k : Nat) :
    ∀ s : State, s.cfg = c → s.cnt ≤ 16 →
      Accounted c s (textLoop k s) (textEvents c (((s.txt.toList.take s.cnt).drop s.idx).take k)) := by
  induction k with
  | zero => exact fun s hc _ => Accounted.refl s hc
  | succ k ih =>
    intro s hc hcnt
    rw [textLoop]
    split
    · next hidx =>
      have hlen : s.idx < (s.txt.toList.take s.cnt).length := by
        simp; omega
      have hbyte : (s.txt.toList.take s.cnt)[s.idx] = cellAt s.txt s.idx := by
        simp [cellAt, show s.idx < 16 by omega]
      have hturn := transmitByte_accounted (cellAt s.txt s.idx) .character s hc h
      obtain ⟨-, -, -, -, htxt, hcnt', hidx', -⟩ := (transmitByte_frame (cellAt s.txt s.idx) .character s).fields
      have hnext := hturn.trans (nextText_accounted _ hturn.cfg)
      have hrest := hnext.trans (ih _ hnext.cfg (by rwa [nextText_cnt, hcnt']))
      rw [nextText_txt, nextText_cnt, nextText_idx, htxt, hcnt', hidx', List.append_nil] at hrest
      rwa [List.drop_eq_getElem_cons hlen, hbyte, List.take_succ_cons, textEvents, List.flatMap_cons]
    · next hidx =>
      rw [List.drop_eq_nil_of_le (by simp; omega)]
      exact Accounted.refl s hc

theorem textBody_accounted (h : c.valid = true) {text : List Byte} (htext : text.length ≤ maxText) (s : State) (hc : s.cfg = c) :
    Accounted c s (textBody text s) (textEvents c text) := by
  have hload : Accounted c s (loadText text s) [] := .of_eq hc rfl rfl rfl rfl rfl rfl
  have hall := hload.trans (textLoop_accounted h maxText (loadText text s) hload.cfg htext)
  rwa [loadText_cnt, loadText_idx, loadText_txt_take text s htext, List.drop_zero, List.take_of_length_le htext,
    List.nil_append] at hall

end Sys2Proof.Machine
end

section
/-!
PROOFS. `RENDER` (spec/43_facade.md R224, R225): the events it accounts for, how many of each kind and how long they take, the latch
bits it leaves and the latch events it makes.
-/

namespace Sys2Proof.Machine

variable {c : Config} {d : Device}

/-! ## What follows the configuration of the pins -/

/-- The events of `RENDER` after those of its `CONFIGURE_ALL` (43 R224). -/
def displayEvents (c : Config) (text : List Byte) : List Event := initEvents c ++ [.dly 500000] ++ textEvents c text

theorem renderEvents_eq (c : Config) (d : Device) (text : List Byte) :
    renderEvents c d text = configureAllEvents c d ++ displayEvents c text := by
  simp [renderEvents, displayEvents]

/-- Once it has configured the pins, `RENDER` accounts for the events of `INIT`, of its delay and of its text. -/
theorem renderBody_accounted_display (h : c.valid = true) {text : List Byte} (htext : text.length ≤ maxText) (s : State)
    (hc : s.cfg = c) : Accounted c (configureAllBody s) (renderBody text s) (displayEvents c text) := by
  have hinit := initBody_accounted h (configureAllBody s) ((configureAllBody_cfg s).trans hc)
  have hwait := hinit.trans (delay_accounted tPreRenderSettle _ hinit.cfg)
  exact hwait.trans (textBody_accounted h htext _ hwait.cfg)

theorem renderBody_accounted (h : c.valid = true) {text : List Byte} (htext : text.length ≤ maxText) (s : State)
    (hc : s.cfg = c) : Accounted c s (renderBody text s) (renderEvents c s.dev text) := by
  rw [renderEvents_eq]
  exact (configureAllBody_accounted h s hc).trans (renderBody_accounted_display h htext s hc)

/-! ## The latch bits -/

theorem transmits_writesOnly (h : c.valid = true) (m : Mode) (bs : List Byte) :
    WritesOnly c (transferPins c.pins) (bs.flatMap fun b => transmitEvents c b m) := by
  induction bs with
  | nil => exact writesOnly_nil
  | cons b bs ih => exact (transmitEvents_writesOnly h b m).append ih

theorem initEvents_writesOnly (h : c.valid = true) : WritesOnly c (transferPins c.pins) (initEvents c) := by
  rw [initEvents_eq]
  exact (transmits_writesOnly h .command _).append (writesOnly_dly 500)

theorem initWait_writesOnly (h : c.valid = true) : WritesOnly c (transferPins c.pins) (initEvents c ++ [.dly 500000]) :=
  (initEvents_writesOnly h).append (writesOnly_dly 500000)

theorem displayEvents_writesOnly (h : c.valid = true) (text : List Byte) :
    WritesOnly c (transferPins c.pins) (displayEvents c text) :=
  (initWait_writesOnly h).append (transmits_writesOnly h .character text)

/-- `CONFIGURE_ALL` writes no latch bit (43 R222). -/
theorem latchBit_configureAllBody (s : State) (p : Pin) : latchBit (configureAllBody s).dev p = latchBit s.dev p := by
  rw [latchBit, latchBit, configureAllBody_outl]

/-- `RENDER` writes the latch bits of the pins of the transfers and no other (43 R227). -/
theorem latchBit_renderBody {text : List Byte} {s : State} (h : s.cfg.valid = true) (htext : text.length ≤ maxText) {p : Pin}
    (hp : p ∉ transferPins s.cfg.pins) : latchBit (renderBody text s).dev p = latchBit s.dev p := by
  rw [(renderBody_accounted_display h htext s rfl).dev, (displayEvents_writesOnly h text).latch _ hp, latchBit_configureAllBody]

/-! ## The latch events -/

/-- The nibbles of `INIT`, then those of the text (43 R225). -/
theorem displayEvents_shows (h : c.valid = true) (hd : DisplayDriven c d) (text : List Byte) :
    Shows c d (displayEvents c text)
      (initLatches (latchBit d c.pins.rw) ++ text.flatMap (byteLatches (latchBit d c.pins.rw) .character)) := by
  have hwait : Shows c (replay c d (initEvents c)) [.dly 500000] [] := .nil
  have hinit := (initEvents_shows h hd).append hwait
  have htext := transmits_shows h .character text (hd.replay (initWait_writesOnly h))
  rw [(initWait_writesOnly h).latch d (rw_not_mem_transferPins h)] at htext
  rw [List.append_nil] at hinit
  exact hinit.append htext

theorem configureAllBody_displayDriven {s : State} (h : s.cfg.valid = true) :
    DisplayDriven s.cfg (configureAllBody s).dev := by
  intro p hp
  refine pinFunction_configureAllBody_output h ?_
  rw [show s.cfg.pins.outputs = s.cfg.pins.lcd ++ [s.cfg.pins.led] from rfl]
  exact List.mem_append_left _ hp

/-- The latch stream of `RENDER` does not depend on what the pins were: it configures them first (43 R225). -/
theorem renderBody_latched {text : List Byte} {s : State} (h : s.cfg.valid = true) (htext : text.length ≤ maxText) :
    (renderBody text s).latched = s.latched ++ initLatches (latchBit s.dev s.cfg.pins.rw) ++
      text.flatMap (byteLatches (latchBit s.dev s.cfg.pins.rw) .character) := by
  have hshow := displayEvents_shows h (configureAllBody_displayDriven h) text
  rw [latchBit_configureAllBody] at hshow
  rw [(renderBody_accounted_display h htext s rfl).latched_eq hshow, configureAllBody_latched, List.append_assoc]

/-! ## How long the events take, and how many of a kind they are -/

theorem elapsed_textEvents (c : Config) (text : List Byte) : elapsed (textEvents c text) = 3000 * text.length := by
  induction text with
  | nil => rfl
  | cons b text ih =>
    rw [textEvents, List.flatMap_cons, elapsed_append, elapsed_transmitEvents, ← textEvents, ih, List.length_cons]
    omega

theorem elapsed_displayEvents (c : Config) (text : List Byte) :
    elapsed (displayEvents c text) = 18500 + 500000 + 3000 * text.length := by
  rw [displayEvents, elapsed_append, elapsed_append, elapsed_initEvents, elapsed_textEvents]
  rfl

section
variable {P : Event → Bool} {isWr isRd : Bool} (hwr : ∀ off v, P (.wr off v) = isWr)
include hwr

theorem countP_textEvents (c : Config) (text : List Byte) :
    (textEvents c text).countP P =
      (13 * text.length + textPopcount text) * (isWr.toNat + 2 * (P .bar).toNat) + 6 * text.length * (P (.dly 500)).toNat := by
  induction text with
  | nil => simp [textEvents, textPopcount]
  | cons b text ih =>
    rw [textEvents, List.flatMap_cons, List.countP_append, countP_transmitEvents hwr, ← textEvents, ih]
    simp only [textPopcount, List.map_cons, List.sum_cons, List.length_cons]
    ring

theorem countP_configureEvents (hrd : ∀ off v, P (.rd off v) = isRd) (c : Config) (d : Device) (ps : List Pin) (dir : PinDirection) :
    (configureEvents c d ps dir).countP P =
      2 * (P .bar).toNat + (touched ps).length * (isRd.toNat + isWr.toNat) := by
  have hreg (k : Fin 6) : (configureRegEvents c ps dir k d.fsel[k]).countP P = isRd.toNat + isWr.toNat := by
    rw [configureRegEvents, List.countP_cons, countP_one, hrd, hwr, Nat.add_comm]
    cases isRd <;> rfl
  have hregs : ((touched ps).flatMap fun k => configureRegEvents c ps dir k d.fsel[k]).countP P =
      (touched ps).length * (isRd.toNat + isWr.toNat) := by
    simp only [List.countP_flatMap, Function.comp_def, hreg, List.map_const', List.sum_replicate, smul_eq_mul]
  rw [configureEvents, ← List.singleton_append, List.countP_append, List.countP_append, hregs, countP_one]
  ring

theorem countP_renderEvents (hrd : ∀ off v, P (.rd off v) = isRd) (c : Config) (d : Device) (text : List Byte) :
    (renderEvents c d text).countP P =
      4 * (P .bar).toNat + ((touched c.pins.outputs).length + 1) * (isRd.toNat + isWr.toNat) +
        (92 + 13 * text.length + textPopcount text) * (isWr.toNat + 2 * (P .bar).toNat) +
        (37 + 6 * text.length) * (P (.dly 500)).toNat + (P (.dly 500000)).toNat := by
  simp only [renderEvents, configureAllEvents, List.countP_append, countP_configureEvents hwr hrd, touched_singleton,
    List.length_singleton, countP_initEvents hwr, countP_one, countP_textEvents hwr]
  ring

end

/-! ## The whole operation -/

/-- An operation on a text within its bounds runs its body on the first `n` bytes in an active idle block (60 R289). -/
theorem runTextOp_of_canRun {s : State} (h : CanRun s) (op : OpName) {text : List Byte} {n : Nat} (hlen : n ≤ text.length)
    (hmax : n ≤ maxText) (body : List Byte → State → State) :
    runTextOp op text n body s = .next (finish (body (text.take n) (beginOp op s))) := by
  rw [runTextOp, whenActive_of_canRun h, textOf?, if_pos ⟨hlen, hmax⟩]

/-- Settles O34: the body accounts for the events of its four parts, which are counted by their kinds, and the display is driven
once the first part is over. -/
theorem renderTotals : Obligations.RenderTotals := by
  unfold Obligations.RenderTotals
  intro text n s hvalid hrun hlen hmax
  have htake : (text.take n).length = n := List.length_take_of_le hlen
  have htext : (text.take n).length ≤ maxText := htake.trans_le hmax
  have hacc := renderBody_accounted hvalid htext (beginOp .render s) rfl
  have hnow := hacc.now
  rw [renderEvents_eq, elapsed_append, elapsed_displayEvents, htake] at hnow
  refine ⟨_, _, runTextOp_of_canRun hrun .render hlen hmax renderBody, hacc.trace, ?_,
    (countP_renderEvents (isWr := true) (isRd := false) (fun _ _ => rfl) (fun _ _ => rfl) s.cfg s.dev _).trans ?_, ?_,
    renderBody_latched (s := beginOp .render s) hvalid htext⟩
  · rw [← List.countP_true, countP_renderEvents (isWr := true) (isRd := true) (fun _ _ => rfl) (fun _ _ => rfl), htake]
    simp only [Bool.toNat_true]
    ring
  · simp only [htake, Bool.toNat_true, Bool.toNat_false]
    ring
  · rw [beginOp_now] at hnow
    rw [finish_now]
    omega

end Sys2Proof.Machine
end

section
/-!
PROOFS. The LED (spec/43_facade.md R220): `LED_SET` is `SET` of its pin, and no request of the channel writes its latch bit.
-/

namespace Sys2Proof.Machine

variable {c : Config}

/-- `LED_SET` differs from `SET` of the LED pin in the name of the operation in progress only, which its end drops. -/
theorem exec_ledSet (lvl : Bool) (s : State) : exec (.ledSet lvl) s = exec (.set s.cfg.pins.led.val lvl) s := by
  simp only [exec, execLedSet, execSet, runOp, runPinOp, pinOf?_val]
  rfl

theorem led_not_mem_transferPins (h : c.valid = true) : c.pins.led ∉ transferPins c.pins := by
  have hpins := pins_nodup h
  simp only [PinMap.all, PinMap.outputs, List.cons_append, List.nil_append, List.nodup_cons, List.mem_cons, not_or] at hpins
  simp only [transferPins, dataLines, List.mem_cons, not_or]
  tauto

theorem acceptedText_length {bytes text : List Byte} (h : acceptedText bytes = some text) : text.length ≤ maxText := by
  unfold acceptedText at h
  split at h
  · next token len _ =>
    obtain ⟨⟨-, hmax⟩, htext⟩ := Option.ite_none_right_eq_some.1 h
    cases htext
    exact (List.length_take_le _ _).trans hmax
  · cases h

/-- A write request writes no latch bit but those of the pins of the transfers, whether it is accepted or absorbed (43 R227). -/
theorem latchBit_writeReqBody {bytes : List Byte} {s : State} (h : s.cfg.valid = true) {p : Pin} (hp : p ∉ transferPins s.cfg.pins) :
    latchBit (writeReqBody bytes s).dev p = latchBit s.dev p := by
  unfold writeReqBody
  split
  · next text htext => exact latchBit_renderBody (s := storeRequest bytes s) h (acceptedText_length htext) hp
  · rfl

/-- Settles O30, by `SET` of the LED pin, and by the latch bits of `RENDER`, of which the LED is none. -/
theorem ledSetEffect : Obligations.LedSetEffect := by
  unfold Obligations.LedSetEffect
  refine ⟨fun lvl s h => ?_, fun bytes s t hvalid h => ?_⟩
  · obtain ⟨t, hset, htrace, hlatch, -⟩ := setEffect s.cfg.pins.led lvl s h
    exact ⟨t, (exec_ledSet lvl s).trans hset, hset, htrace, (hlatch _).trans (if_pos rfl)⟩
  · obtain h | h := h <;> obtain ⟨-, h⟩ := whenActive_next h <;> cases h
    · exact latchBit_writeReqBody (s := beginOp .writeReq s) hvalid (led_not_mem_transferPins hvalid)
    · rfl

end Sys2Proof.Machine
end

section
/-!
PROOFS. The command channel (spec/44_command_channel.md R240, R250, R253, R254): `ACTIVATE` by the lifecycle and the mapping, and what a
write request does where its text is accepted and where it is absorbed.
-/

namespace Sys2Proof.Machine

variable {bytes text : List Byte}

/-! ## `ACTIVATE` -/

theorem activate_of_active {s : State} (hlife : s.life = .active) (ok : Bool) :
    exec (.activate ok) s = .refused .badLifecycle := if_pos hlife

/-- An idle Inactive block accepts `ACTIVATE`, whether the mapping succeeded or not (44 R240). -/
theorem activate_of_inactive {s : State} (hlife : s.life = .inactive) (hbusy : s.busy = false) (ok : Bool) :
    exec (.activate ok) s =
      .next (if ok then finish { configureAllBody (activating s) with result := .ok } else raiseError .fatalMappingError s) := by
  cases ok <;> simp [exec, execActivate, activateBody, activating, hlife, hbusy]

/-- Settles O36: a successful `ACTIVATE` is `CONFIGURE_ALL` in the state made Active, which accounts for the events of that operation and
writes the device, the trace and the count of draws only. -/
theorem activateEffect : Obligations.ActivateEffect := by
  unfold Obligations.ActivateEffect
  refine ⟨fun s ok hlife => activate_of_active hlife ok, fun s hvalid hlife hbusy => ?_,
    fun s hlife hbusy => activate_of_inactive hlife hbusy false⟩
  have hacc := configureAllBody_accounted hvalid (activating s) rfl
  refine ⟨_, activate_of_inactive hlife hbusy true, hacc.trace, hacc.dev, ?_⟩
  rw [configureAllBody_eq]
  rfl

/-! ## What `WRITE_REQ` does with its request -/

theorem writeReqBody_of_accepted (h : acceptedText bytes = some text) (s : State) :
    writeReqBody bytes s = { renderBody text (storeRequest bytes s) with result := .count bytes.length } := by
  rw [writeReqBody, h]

theorem writeReqBody_of_rejected (h : acceptedText bytes = none) (s : State) :
    writeReqBody bytes s = absorbError bytes.length (storeRequest bytes s) := by
  rw [writeReqBody, h]

/-- The length as presented is returned either way (44 R253). -/
theorem writeReqBody_result (bytes : List Byte) (s : State) : (writeReqBody bytes s).result = .count bytes.length := by
  cases h : acceptedText bytes with
  | some text => rw [writeReqBody_of_accepted h]
  | none => rw [writeReqBody_of_rejected h]; rfl

theorem exec_writeReq_of_canRun {s : State} (hrun : CanRun s) (bytes : List Byte) :
    exec (.writeReq bytes) s = .next (finish (dropRequest (writeReqBody bytes (beginOp .writeReq s)))) :=
  runOp_of_canRun hrun .writeReq fun t => dropRequest (writeReqBody bytes t)

/-- Settles O42, by the result of the body, which the end of the request keeps. -/
theorem writeReqReturnsPresentedLength : Obligations.WriteReqReturnsPresentedLength := by
  unfold Obligations.WriteReqReturnsPresentedLength
  exact fun bytes s hrun => ⟨_, exec_writeReq_of_canRun hrun bytes, writeReqBody_result bytes _⟩

/-! ## Accepted and absorbed requests -/

/-- An accepted request appends the events of `RENDER` of its text (44 R250). -/
theorem exec_writeReq_accepted {s : State} (hvalid : s.cfg.valid = true) (hrun : CanRun s) (h : acceptedText bytes = some text) :
    ∃ t : State, exec (.writeReq bytes) s = .next t ∧ t.trace = s.trace ++ renderEvents s.cfg s.dev text := by
  have hacc := renderBody_accounted hvalid (acceptedText_length h) (storeRequest bytes (beginOp .writeReq s)) rfl
  refine ⟨_, exec_writeReq_of_canRun hrun bytes, ?_⟩
  rw [writeReqBody_of_accepted h]
  exact hacc.trace

/-- A request that is not accepted appends one diagnostic and touches no device register (44 R250). -/
theorem exec_writeReq_rejected {s : State} (hrun : CanRun s) (h : acceptedText bytes = none) :
    ∃ t : State, exec (.writeReq bytes) s = .next t ∧ t.trace = s.trace ++ [.log] ∧ t.dev = s.dev := by
  refine ⟨_, exec_writeReq_of_canRun hrun bytes, ?_⟩
  rw [writeReqBody_of_rejected h]
  exact ⟨rfl, rfl⟩

/-! ## The document's examples (44 R254) -/

theorem acceptedText_hello5 :
    acceptedText [0x68, 0x65, 0x6C, 0x6C, 0x6F, 0x20, 0x35] = some [0x68, 0x65, 0x6C, 0x6C, 0x6F] := by decide

/-- The length 9 exceeds the token `hi`. -/
theorem acceptedText_hi9 : acceptedText [0x68, 0x69, 0x20, 0x39] = none := by decide

/-- After the token `a` stands no digit. -/
theorem acceptedText_abc : acceptedText [0x61, 0x20, 0x62, 0x20, 0x63] = none := by decide

/-- Settles O46: the first example is accepted and the other two are absorbed. -/
theorem documentRequests : Obligations.DocumentRequests := by
  unfold Obligations.DocumentRequests
  exact fun s hvalid hrun => ⟨exec_writeReq_accepted hvalid hrun acceptedText_hello5,
    exec_writeReq_rejected hrun acceptedText_hi9, exec_writeReq_rejected hrun acceptedText_abc⟩

end Sys2Proof.Machine
end

section
/-!
PROOFS. What one byte contributes to the receiver's view (spec/45_bus_receiver_view.md R271).
-/

namespace Sys2Proof.Machine

/-- With the display driven a transfer appends the two latch events of its byte, RW as it is (45 R271). -/
theorem exec_transmit_latched {s : State} (hvalid : s.cfg.valid = true) (hrun : CanRun s) (hd : LcdDriven s) (b : Byte) (m : Mode) :
    ∃ t : State, exec (.transmit b m) s = .next t ∧
      t.latched = s.latched ++ byteLatches (latchBit s.dev s.cfg.pins.rw) m b := by
  have hbody := transmitByte_accounted b m (beginOp .transmit s) rfl hvalid
  obtain ⟨t, hexec, hacc⟩ := runOp_accounted hrun .transmit hbody
  exact ⟨t, hexec, hacc.latched_eq (transmitEvents_shows hvalid (lcdDriven_iff.1 hd) b m)⟩

/-- Settles O23: the latch events of a driven transfer are those of its byte, here with RW low. -/
theorem transmitLatchesNibbles : Obligations.TransmitLatchesNibbles := by
  unfold Obligations.TransmitLatchesNibbles
  intro b m s hvalid hrun hd hrw
  obtain ⟨t, hexec, hlatched⟩ := exec_transmit_latched hvalid hrun hd b m
  rw [hrw] at hlatched
  exact ⟨t, hexec, hlatched⟩

end Sys2Proof.Machine
end

section
/-!
PROOFS. The exceptions (spec/60_exceptions.md R285, R289): where an operand is refused, and that no result but that of a failed
`ACTIVATE` is an error.
-/

namespace Sys2Proof.Machine

/-! ## Operands out of range (60 R289) -/

theorem pinOf?_eq_none {p : Nat} (h : 54 ≤ p) : pinOf? p = none := dif_neg (Nat.not_lt.2 h)

theorem pinsOf?_eq_none {pins : List Nat} (h : ∃ p ∈ pins, 54 ≤ p) : pinsOf? pins = none := by
  induction pins with
  | nil => simp at h
  | cons q qs ih =>
    obtain hq | hqs := (List.exists_mem_cons_iff (fun p => 54 ≤ p) q qs).1 h
    · simp [pinsOf?, pinOf?_eq_none hq]
    · simp [pinsOf?, ih hqs]

theorem textOf?_eq_none {text : List Byte} {n : Nat} (h : text.length < n ∨ 16 < n) : textOf? text n = none :=
  if_neg (by rw [maxText]; omega)

/-! ## Why an operation is refused -/

/-- The refusals by the state of the block, whatever the operands (60 R287, R288). -/
def Refusal.OfState (r : Refusal) : Prop := r = .useWhileUnmapped ∨ r = .badLifecycle ∨ r = .busy

theorem Refusal.OfState.not_operand {r : Refusal} (h : r.OfState) : r ≠ .invalidPin ∧ r ≠ .badOperand := by
  obtain rfl | rfl | rfl := h <;> decide

/-- The operations of the block that name pins as operands. -/
def NamesPin (i : Instr) : Prop := (∃ pins dir, i = .configure pins dir) ∨ (∃ p lvl, i = .set p lvl) ∨ ∃ p, i = .read p

/-- The operations of the block with a text and a count as operands. -/
def NamesText (i : Instr) : Prop := (∃ text n, i = .writeText text n) ∨ ∃ text n, i = .render text n

section
variable {s : State} {r : Refusal} {op : OpName}

/-- A refusal is one of the checks, or comes after them (60 R293). -/
theorem whenActive_refused {k : Answer} (h : whenActive s k = .refused r) : r.OfState ∨ k = .refused r := by
  unfold whenActive at h
  split_ifs at h
  · cases h; exact .inl (.inl rfl)
  · cases h; exact .inl (.inr (.inr rfl))
  · exact .inr h

theorem runOp_refused {body : State → State} (h : runOp op body s = .refused r) : r.OfState := by
  obtain h | h := whenActive_refused h
  · exact h
  · cases h

theorem runPinOp_refused {p : Nat} {body : Pin → State → State} (h : runPinOp op p body s = .refused r) :
    r.OfState ∨ r = .invalidPin := by
  refine (whenActive_refused h).imp_right fun h => ?_
  split at h <;> cases h
  rfl

theorem execConfigure_refused {pins : List Nat} {dir : PinDirection} (h : execConfigure pins dir s = .refused r) :
    r.OfState ∨ r = .invalidPin := by
  refine (whenActive_refused h).imp_right fun h => ?_
  split at h <;> cases h
  rfl

theorem runTextOp_refused {text : List Byte} {n : Nat} {body : List Byte → State → State}
    (h : runTextOp op text n body s = .refused r) : r.OfState ∨ r = .badOperand := by
  refine (whenActive_refused h).imp_right fun h => ?_
  split at h <;> cases h
  rfl

theorem execActivate_refused {ok : Bool} (h : execActivate ok s = .refused r) : r.OfState := by
  unfold execActivate at h
  split_ifs at h <;> cases h
  · exact .inr (.inl rfl)
  · exact .inr (.inr rfl)

theorem execDeactivate_refused (h : execDeactivate s = .refused r) : r.OfState := by
  unfold execDeactivate at h
  split_ifs at h
  cases h
  exact .inr (.inl rfl)

/-- An operation of the block is refused by its state, or for an operand of the kind it has. -/
theorem exec_refused {i : Instr} (hi : isOperation i = true) (h : exec i s = .refused r) :
    r.OfState ∨ (r = .invalidPin ∧ NamesPin i) ∨ (r = .badOperand ∧ NamesText i) := by
  cases i with
  | configure pins dir => exact (execConfigure_refused h).imp_right fun hr => .inl ⟨hr, .inl ⟨pins, dir, rfl⟩⟩
  | set p lvl => exact (runPinOp_refused h).imp_right fun hr => .inl ⟨hr, .inr (.inl ⟨p, lvl, rfl⟩)⟩
  | read p => exact (runPinOp_refused h).imp_right fun hr => .inl ⟨hr, .inr (.inr ⟨p, rfl⟩)⟩
  | writeText text n => exact (runTextOp_refused h).imp_right fun hr => .inr ⟨hr, .inl ⟨text, n, rfl⟩⟩
  | render text n => exact (runTextOp_refused h).imp_right fun hr => .inr ⟨hr, .inr ⟨text, n, rfl⟩⟩
  | activate => exact .inl (execActivate_refused h)
  | deactivate => exact .inl (execDeactivate_refused h)
  | transmit | writeCommand | writeChar | init | configureAll | ledSet | buttonRead | readReq =>
    exact .inl (runOp_refused h)
  | writeReq bytes =>
    change execWriteReq bytes s = _ at h
    exact .inl (runOp_refused h)
  | _ => cases hi

end

/-- Settles O53: after the checks each operand is turned into one the block accepts or refused, and the other operations have no such
operand. -/
theorem operandsRefused : Obligations.OperandsRefused := by
  unfold Obligations.OperandsRefused
  refine ⟨fun p lvl s hrun hp => ?_, fun pins dir s hrun hpins => ?_, fun text n s hrun hn => ?_,
    fun i s hi => ⟨fun h => ?_, fun h => ?_⟩⟩
  · simp [exec, execSet, execRead, runPinOp, whenActive_of_canRun hrun, pinOf?_eq_none hp]
  · simp [exec, execConfigure, whenActive_of_canRun hrun, pinsOf?_eq_none hpins]
  · simp [exec, execWriteText, execRender, runTextOp, whenActive_of_canRun hrun, textOf?_eq_none hn]
  · obtain hstate | ⟨-, hpin⟩ | ⟨hr, -⟩ := exec_refused hi h
    · exact absurd rfl hstate.not_operand.1
    · exact hpin
    · cases hr
  · obtain hstate | ⟨hr, -⟩ | ⟨-, htext⟩ := exec_refused hi h
    · exact absurd rfl hstate.not_operand.2
    · cases hr
    · exact htext

/-! ## What the bodies leave as the result -/

theorem PinFrame.result {s t : State} (h : PinFrame s t) : t.result = s.result := by rw [h]

@[simp] theorem configurePins_result (ps : List Pin) (dir : PinDirection) (s : State) :
    (configurePins ps dir s).result = s.result := (configurePins_frame ps dir s).result

@[simp] theorem configureAllBody_result (s : State) : (configureAllBody s).result = s.result :=
  (configureAllBody_frame s).result

@[simp] theorem transmitByte_result (b : Byte) (m : Mode) (s : State) : (transmitByte b m s).result = s.result :=
  (transmitByte_frame b m s).result

@[simp] theorem initLoop_result (k : Nat) (s : State) : (initLoop k s).result = s.result := by
  induction k generalizing s with
  | zero => rfl
  | succ k ih =>
    rw [initLoop]
    split
    · rw [ih, nextInit_result, transmitByte_result]
    · rfl

@[simp] theorem initBody_result (s : State) : (initBody s).result = s.result := by
  rw [initBody, setReady_result, delay_result, initLoop_result, startInit_result]

@[simp] theorem textLoop_result (k : Nat) (s : State) : (textLoop k s).result = s.result := by
  induction k generalizing s with
  | zero => rfl
  | succ k ih =>
    rw [textLoop]
    split
    · rw [ih, nextText_result, transmitByte_result]
    · rfl

@[simp] theorem textBody_result (text : List Byte) (s : State) : (textBody text s).result = s.result := by
  rw [textBody, textLoop_result, loadText_result]

@[simp] theorem renderBody_result (text : List Byte) (s : State) : (renderBody text s).result = s.result := by
  rw [renderBody, textBody_result, delay_result, initBody_result, configureAllBody_result]

/-! ## Results that are no error -/

/-- The result is one of the named errors (60 R285, R286). -/
def Result.isError : Result → Bool
  | .error _ => true
  | .empty | .ok | .level _ | .bytes _ | .count _ | .word _ | .function _ | .placement _ _ _ | .pinBit _ _ | .sample _
  | .request _ => false

/-- What keeps the result that an accepted operation begins with, which is none (log 4), leaves no error. -/
theorem isError_eq_false_of_kept {op : OpName} {s t : State} (h : t.result = (beginOp op s).result) : t.result.isError = false := by
  rw [h]
  rfl

section
variable {s t : State} {op : OpName}

theorem runOp_isError_eq_false {body : State → State} (h : runOp op body s = .next t)
    (hbody : (body (beginOp op s)).result.isError = false) : t.result.isError = false := by
  obtain ⟨-, h⟩ := whenActive_next h
  cases h
  exact hbody

theorem runPinOp_isError_eq_false {p : Nat} {body : Pin → State → State} (h : runPinOp op p body s = .next t)
    (hbody : ∀ q, (body q (beginOp op s)).result.isError = false) : t.result.isError = false := by
  obtain ⟨-, h⟩ := whenActive_next h
  split at h <;> cases h
  exact hbody _

theorem runTextOp_isError_eq_false {x : List Byte} {n : Nat} {body : List Byte → State → State} (h : runTextOp op x n body s = .next t)
    (hbody : ∀ text, (body text (beginOp op s)).result.isError = false) : t.result.isError = false := by
  obtain ⟨-, h⟩ := whenActive_next h
  split at h <;> cases h
  exact hbody _

theorem execConfigure_isError_eq_false {pins : List Nat} {dir : PinDirection} (h : execConfigure pins dir s = .next t) :
    t.result.isError = false := by
  obtain ⟨-, h⟩ := whenActive_next h
  split at h <;> cases h
  exact isError_eq_false_of_kept (configurePins_result _ dir _)

theorem evaluate_isError_eq_false {r : Result} (h : evaluate r s = .next t) (hr : r.isError = false) : t.result.isError = false := by
  obtain ⟨-, h⟩ := whenActive_next h
  cases h
  exact hr

theorem execAccess_isError_eq_false {r : Reg} {a : Access} (h : execAccess r a s = .next t) : t.result.isError = false := by
  obtain ⟨-, h⟩ := whenActive_next h
  unfold accessReg at h
  split at h <;> cases h <;> rfl

/-- An instruction that needs the block Active ends with no error, by the operation its row runs. -/
theorem exec_isError_eq_false {i : Instr} (hi : needsActive i = true) (h : exec i s = .next t) : t.result.isError = false := by
  cases i with
  | activate => cases hi
  | deactivate => cases hi
  | configure => exact execConfigure_isError_eq_false h
  | set => exact runPinOp_isError_eq_false h fun _ => isError_eq_false_of_kept (setPin_result _ _ _)
  | read => exact runPinOp_isError_eq_false h fun _ => rfl
  | transmit | writeCommand | writeChar | lcdCommand | lcdChar | init0 | init1 | init2 | init3 | init4 | init5 | notSent28 =>
    exact runOp_isError_eq_false h (isError_eq_false_of_kept (transmitByte_result _ _ _))
  | init => exact runOp_isError_eq_false h (isError_eq_false_of_kept (initBody_result _))
  | writeText => exact runTextOp_isError_eq_false h fun _ => isError_eq_false_of_kept (textBody_result _ _)
  | configureAll => exact runOp_isError_eq_false h (isError_eq_false_of_kept (configureAllBody_result _))
  | ledSet => exact runOp_isError_eq_false h (isError_eq_false_of_kept (setPin_result _ _ _))
  | render => exact runTextOp_isError_eq_false h fun _ => isError_eq_false_of_kept (renderBody_result _ _)
  | buttonRead | readReq => exact runOp_isError_eq_false h rfl
  | writeReq bytes =>
    change execWriteReq bytes s = _ at h
    refine runOp_isError_eq_false h ?_
    rw [dropRequest_result, writeReqBody_result]
    rfl
  | gpfsel0 | gpfsel1 | gpfsel2 | gpfsel3 | gpfsel4 | gpfsel5 | gpset0 | gpset1 | gpclr0 | gpclr1 | gplev0 | gplev1 =>
    exact execAccess_isError_eq_false h
  | fselInput | fselOutput | fselAlt2 | fselAlt3 | fselAlt4 | fselAlt5 | fselAlt6 | fselAlt7 | wireReadResp | wireWriteReq =>
    exact evaluate_isError_eq_false h rfl
  | fselPlace p code =>
    simp only [exec, execFselPlace] at h
    split at h
    · exact evaluate_isError_eq_false h rfl
    · cases (whenActive_next h).2
  | pinBit p =>
    simp only [exec, execPinBit] at h
    split at h
    · exact evaluate_isError_eq_false h rfl
    · cases (whenActive_next h).2
  | latchSample =>
    obtain ⟨-, h⟩ := whenActive_next h
    cases h
    rfl

end

/-- Settles O54: the two operations that move `LIFE` leave the result named for them, and every other instruction leaves no error. -/
theorem fatalMappingErrorOnlyFromActivate : Obligations.FatalMappingErrorOnlyFromActivate := by
  unfold Obligations.FatalMappingErrorOnlyFromActivate
  refine ⟨fun s hlife hbusy => activate_of_inactive hlife hbusy false, fun i s t e h he => ?_⟩
  obtain hi | ⟨ok, rfl⟩ | rfl := needsActive_or_lifecycle i
  · have hresult := exec_isError_eq_false hi h
    rw [he] at hresult
    cases hresult
  · obtain rfl := activate_next h
    cases ok with
    | false => cases he; exact ⟨rfl, rfl⟩
    | true => cases he
  · obtain rfl := deactivate_next h
    cases he

end Sys2Proof.Machine
end

section
/-!
PROOFS. The decoder and the encoder (spec/30_encoding.md R90 to R120): what each reader of operands takes from the bytes the encoder
writes, and from these that the two agree and that what is decoded is well-formed.
-/

namespace Sys2Proof

/-! ## Bytes that carry operands -/

theorem toNat_natByte {n : Nat} (h : n < 256) : (natByte n).toNat = n := by
  simp [natByte, Nat.mod_eq_of_lt h]

@[simp] theorem takeByte_cons (b : Byte) (r : List Byte) : takeByte (b :: r) = .ok (b, r) := rfl

@[simp] theorem takeFlag_flagByte (f : Bool) (r : List Byte) : takeFlag (flagByte f :: r) = .ok (f, r) := by
  cases f <;> rfl

theorem takeBytes_length (bs : List Byte) : takeBytes bs.length bs = .ok (bs, []) := by
  simp [takeBytes]

/-- The four bytes of a word, least significant first, are read back as the word. -/
@[simp] theorem takeReg_regBytes (v : Reg32) : takeReg (regBytes v) = .ok (v, []) := by
  have hword : v.extractLsb' 24 8 ++ (v.extractLsb' 16 8 ++ (v.extractLsb' 8 8 ++ v.extractLsb' 0 8)) = v := by
    refine BitVec.eq_of_getLsbD_eq fun i hi => ?_
    simp only [BitVec.getLsbD_append, BitVec.getLsbD_extractLsb']
    grind
  exact congrArg (fun w => Except.ok (w, [])) hword

@[simp] theorem dirOfFlag_flag (d : PinDirection) : dirOfFlag d.flag = d := by cases d <;> rfl

@[simp] theorem modeOfFlag_bit (m : Mode) : modeOfFlag m.bit = m := by cases m <;> rfl

theorem map_toNat_natByte {pins : List Nat} (h : ∀ p ∈ pins, p < 256) : (pins.map natByte).map BitVec.toNat = pins := by
  rw [List.map_map]
  exact (List.map_congr_left fun p hp => toNat_natByte (h p hp)).trans (List.map_id pins)

/-! ## Decoding what is encoded -/

theorem decode_encode_configure {pins : List Nat} {dir : PinDirection} (h : (Instr.configure pins dir).wellFormed = true) :
    decode (encode (.configure pins dir)) = .ok (.configure pins dir, []) := by
  simp only [Instr.wellFormed, Bool.and_eq_true, List.all_eq_true, decide_eq_true_eq] at h
  obtain ⟨⟨hrising, hbytes⟩, hlen⟩ := h
  have htake : takeBytes pins.length (pins.map natByte) = .ok (pins.map natByte, []) := by
    simpa using takeBytes_length (pins.map natByte)
  change decodeConfigure (flagByte dir.flag :: natByte pins.length :: pins.map natByte) = _
  simp [decodeConfigure, toNat_natByte hlen, htake, map_toNat_natByte hbytes, hrising, bind, Except.bind]

@[simp] theorem takeFlag_zero (r : List Byte) : takeFlag (0#8 :: r) = .ok (false, r) := rfl

@[simp] theorem takeFlag_one (r : List Byte) : takeFlag (1#8 :: r) = .ok (true, r) := rfl

/-- A register access decodes to the row of its offset. -/
theorem decode_encodeAccess {off : Byte} {mk : Access → Instr} (h : regRow off.toNat = some mk) (a : Access) :
    decode (encodeAccess off a) = .ok (mk a, []) := by
  cases a <;> simp [encodeAccess, decode, decodeRegacc, h, bind, Except.bind]

theorem decode_encode_fselPlace {p : Nat} (hp : p < 256) (code : BitVec 3) :
    decode (encode (.fselPlace p code)) = .ok (.fselPlace p code, []) := by
  have hrows : ∀ k : BitVec 3, (fselRow (k.setWidth 8).toNat).isSome ∧ (k.setWidth 8).setWidth 3 = k := by decide
  obtain ⟨hrow, hcode⟩ := hrows code
  obtain ⟨i, hi⟩ := Option.isSome_iff_exists.1 hrow
  simp only [encode, decode, decodeFself, hi, hcode]
  simp [toNat_natByte hp, bind, Except.bind]

/-- A count before a text that is all the bytes left. -/
theorem decodeText_natByte (mk : List Byte → Nat → Instr) (t : List Byte) {n : Nat} (h : n < 256) :
    decodeText mk (natByte n :: t) = .ok (mk t n, []) := by
  simp [decodeText, toNat_natByte h, bind, Except.bind]

/-- Settles O8, by the readers of each format. -/
theorem decodeEncodeAgree : Obligations.DecodeEncodeAgree := by
  unfold Obligations.DecodeEncodeAgree
  intro i h
  cases i with
  | configure pins dir => exact decode_encode_configure h
  | set p | read p | pinBit p =>
    have hp : p < 256 := of_decide_eq_true h
    simp [encode, decode, decodeOp, decodeOperands, toNat_natByte hp, bind, Except.bind]
  | fselPlace p code => exact decode_encode_fselPlace (of_decide_eq_true h) code
  | writeText t n | render t n => exact decodeText_natByte _ t (of_decide_eq_true h)
  | transmit | ledSet | activate => simp [encode, decode, decodeOp, decodeOperands, bind, Except.bind]
  | gpfsel0 a | gpfsel1 a | gpfsel2 a | gpfsel3 a | gpfsel4 a | gpfsel5 a | gpset0 a | gpset1 a | gpclr0 a | gpclr1 a
  | gplev0 a | gplev1 a => exact decode_encodeAccess rfl a
  | wireReadResp d => cases d <;> rfl
  | _ => rfl

/-! ## Decoding to well-formed instructions -/

/-- A reader followed by another answers where both do. -/
theorem bind_eq_ok_iff {α β : Type} {x : Except DecodeError α} {f : α → Except DecodeError β} {y : β} :
    (x >>= f) = .ok y ↔ ∃ a, x = .ok a ∧ f a = .ok y := by
  cases x <;> simp [bind, Except.bind]

theorem takeBytes_eq_ok {n : Nat} {r bs left : List Byte} (h : takeBytes n r = .ok (bs, left)) : bs.length = n := by
  unfold takeBytes at h
  split_ifs at h
  cases h
  exact List.length_take_of_le (by omega)

theorem decodeConfigure_wellFormed {r left : List Byte} {i : Instr} (h : decodeConfigure r = .ok (i, left)) :
    i.wellFormed = true := by
  simp only [decodeConfigure, bind_eq_ok_iff] at h
  obtain ⟨⟨d, _⟩, -, ⟨n, _⟩, -, ⟨ps, _⟩, hps, h⟩ := h
  split_ifs at h with hrising
  cases h
  have hlen : ps.length < 256 := takeBytes_eq_ok hps ▸ n.isLt
  simp only [Instr.wellFormed, hrising, Bool.true_and, Bool.and_eq_true, List.all_map, List.all_eq_true, decide_eq_true_eq,
    List.length_map]
  exact ⟨fun b _ => decide_eq_true b.isLt, hlen⟩

theorem decodeText_wellFormed {mk : List Byte → Nat → Instr} {r left : List Byte} {i : Instr}
    (h : decodeText mk r = .ok (i, left)) (hmk : ∀ t n, n < 256 → (mk t n).wellFormed = true) : i.wellFormed = true := by
  simp only [decodeText, bind_eq_ok_iff] at h
  obtain ⟨⟨n, t⟩, -, h⟩ := h
  cases h
  exact hmk t _ n.isLt

/-- Rows whose operands are single bytes, or that have none, are well-formed whatever their bytes. -/
theorem decodeOperands_wellFormed {sel : Nat} {r left : List Byte} {i : Instr} (h : decodeOperands sel r = .ok (i, left)) :
    i.wellFormed = true := by
  unfold decodeOperands at h
  split at h
  case h_1 => exact decodeConfigure_wellFormed h
  case h_8 | h_12 => exact decodeText_wellFormed h fun _ _ hn => decide_eq_true hn
  case h_2 =>
    simp only [bind_eq_ok_iff] at h
    obtain ⟨⟨p, _⟩, -, ⟨l, _⟩, -, h⟩ := h
    cases h
    exact decide_eq_true p.isLt
  case h_3 =>
    simp only [bind_eq_ok_iff] at h
    obtain ⟨⟨p, _⟩, -, h⟩ := h
    cases h
    exact decide_eq_true p.isLt
  case h_4 =>
    simp only [bind_eq_ok_iff] at h
    obtain ⟨_, -, _, -, h⟩ := h
    cases h
    rfl
  case h_5 | h_6 | h_10 | h_13 =>
    simp only [bind_eq_ok_iff] at h
    obtain ⟨_, -, h⟩ := h
    cases h
    rfl
  all_goals cases h <;> rfl

theorem decodeBusWord_wellFormed {b : Byte} {m : Bool} {role : Nat} {i : Instr} (h : decodeBusWord b m role = .ok i) :
    i.wellFormed = true := by
  have hcommand : (commandRow b).wellFormed = true := by
    unfold commandRow
    split_ifs <;> rfl
  have hinit (k : Nat) : (initInstr k).wellFormed = true := by
    unfold initInstr
    split <;> rfl
  unfold decodeBusWord at h
  split_ifs at h <;> cases h
  · rfl
  · exact hcommand
  · rfl
  · exact hinit _

theorem regRow_wellFormed {off : Nat} {mk : Access → Instr} (h : regRow off = some mk) (a : Access) : (mk a).wellFormed = true := by
  unfold regRow at h
  split at h <;> cases h <;> rfl

theorem fselRow_wellFormed {code : Nat} {i : Instr} (h : fselRow code = some i) : i.wellFormed = true := by
  unfold fselRow at h
  split at h <;> cases h <;> rfl

theorem decodeRegacc_wellFormed {r left : List Byte} {i : Instr} (h : decodeRegacc r = .ok (i, left)) : i.wellFormed = true := by
  unfold decodeRegacc at h
  split at h
  · cases h
  · split at h
    · cases h
    · next hmk =>
      obtain ⟨⟨wr, _⟩, -, h⟩ := bind_eq_ok_iff.1 h
      dsimp only at h
      split_ifs at h
      · obtain ⟨_, -, h⟩ := bind_eq_ok_iff.1 h
        cases h
        exact regRow_wellFormed hmk _
      · cases h
        exact regRow_wellFormed hmk _

theorem decodeFself_wellFormed {r left : List Byte} {i : Instr} (h : decodeFself r = .ok (i, left)) : i.wellFormed = true := by
  unfold decodeFself at h
  split at h
  · cases h
  · split at h
    · cases h
    · next hrow =>
      obtain ⟨⟨place, _⟩, -, h⟩ := bind_eq_ok_iff.1 h
      dsimp only at h
      split_ifs at h
      · obtain ⟨⟨p, _⟩, -, h⟩ := bind_eq_ok_iff.1 h
        cases h
        exact decide_eq_true p.isLt
      · cases h
        exact fselRow_wellFormed hrow

/-- Settles O9, by the reader of each format. -/
theorem decodedIsWellFormed : Obligations.DecodedIsWellFormed := by
  unfold Obligations.DecodedIsWellFormed
  rintro ⟨fmt, bytes⟩ i left h
  cases fmt with
  | op =>
    cases bytes with
    | nil => cases h
    | cons b r => exact decodeOperands_wellFormed h
  | lcdw =>
    simp only [decode] at h
    unfold decodeLcdw at h
    split at h
    · split_ifs at h
      obtain ⟨_, hword, h⟩ := bind_eq_ok_iff.1 h
      cases h
      exact decodeBusWord_wellFormed hword
    · cases h
  | regacc => exact decodeRegacc_wellFormed h
  | fself => exact decodeFself_wellFormed h
  | pinbit =>
    obtain ⟨⟨p, _⟩, -, h⟩ := bind_eq_ok_iff.1 h
    cases h
    exact decide_eq_true p.isLt
  | nib | wireRequest => cases h; rfl
  | wireResponse =>
    simp only [decode, decodeResponse] at h
    split_ifs at h <;> cases h <;> rfl

/-- Settles O10: the decoder evaluated at the eight words. -/
theorem tableWordsDecode : Obligations.TableWordsDecode := by
  unfold Obligations.TableWordsDecode
  exact ⟨rfl, rfl, rfl, rfl, rfl, rfl, rfl, rfl⟩

end Sys2Proof
end

section
/-!
PROOFS. What a step is made of: every operation and every position is a sequence of the primitives of spec/00_scope.md R12 and of updates
that touch nothing the trace accounts for. So what each primitive accounts for, and keeps, a step does.
-/

namespace Sys2Proof.Machine

variable {c : Config} {s t : State}

/-! ## Sequences of primitives -/

/-- An update of the block's own fields: none of those the trace accounts for, nor the parameters. -/
structure Bookkeeping (s t : State) : Prop where
  cfg : t.cfg = s.cfg
  dev : t.dev = s.dev
  now : t.now = s.now
  trace : t.trace = s.trace
  logCnt : t.logCnt = s.logCnt
  latched : t.latched = s.latched

/-- One primitive, or an update of the block's own fields. -/
inductive Primitive : State → State → Prop where
  | own {s t : State} (h : Bookkeeping s t) : Primitive s t
  | barrier (s : State) : Primitive s (barrier s)
  | delay (d : Nat) (s : State) : Primitive s (delay d s)
  | log (s : State) : Primitive s (logEntry s)
  | readFsel (k : Fin 6) (s : State) : Primitive s (readFsel k s)
  | readLev (j : Fin 2) (s : State) : Primitive s (readLev j s)
  | write (r : Reg) (v : Reg32) (s : State) : Primitive s (regWrite r v s)

/-- A sequence of primitives. -/
def Work (s t : State) : Prop := Relation.ReflTransGen Primitive s t

theorem Work.refl (s : State) : Work s s := Relation.ReflTransGen.refl

theorem Work.trans {u : State} (h : Work s t) (k : Work t u) : Work s u := Relation.ReflTransGen.trans h k

theorem Primitive.work (h : Primitive s t) : Work s t := Relation.ReflTransGen.single h

/-- An update that leaves every accounted field is work, by computation. -/
theorem Work.own (cfg : t.cfg = s.cfg := by rfl) (dev : t.dev = s.dev := by rfl) (now : t.now = s.now := by rfl)
    (trace : t.trace = s.trace := by rfl) (logCnt : t.logCnt = s.logCnt := by rfl)
    (latched : t.latched = s.latched := by rfl) : Work s t :=
  (Primitive.own ⟨cfg, dev, now, trace, logCnt, latched⟩).work

theorem Work.cfg_eq (h : Work s t) : t.cfg = s.cfg := by
  induction h with
  | refl => rfl
  | tail _ hstep ih =>
    rw [← ih]
    cases hstep with
    | own h => exact h.cfg
    | barrier | delay | log | readFsel | readLev | write => rfl

theorem Primitive.accounted (hc : s.cfg = c) (h : c.valid = true) (hp : Primitive s t) : ∃ es, Accounted c s t es := by
  cases hp with
  | own hb => exact ⟨[], .of_eq hc hb.cfg hb.trace hb.dev hb.now hb.logCnt hb.latched⟩
  | barrier => exact ⟨_, barrier_accounted s hc⟩
  | delay d => exact ⟨_, delay_accounted d s hc⟩
  | log => exact ⟨_, logEntry_accounted s hc⟩
  | readFsel k => exact ⟨_, readFsel_accounted k s hc⟩
  | readLev j => exact ⟨_, readLev_accounted j s hc⟩
  | write r v => exact ⟨_, regWrite_accounted r v s hc h⟩

theorem Work.accounted (hc : s.cfg = c) (h : c.valid = true) (hw : Work s t) : ∃ es, Accounted c s t es := by
  induction hw with
  | refl => exact ⟨[], .refl s hc⟩
  | tail _ hstep ih =>
    obtain ⟨es, hes⟩ := ih
    obtain ⟨fs, hfs⟩ := hstep.accounted hes.cfg h
    exact ⟨es ++ fs, hes.trans hfs⟩

/-! ## The operations -/

theorem Work.foldl {α : Type} (f : State → α → State) (h : ∀ s a, Work s (f s a)) (as : List α) :
    ∀ s, Work s (as.foldl f s) := by
  induction as with
  | nil => exact Work.refl
  | cons a as ih => exact fun s => (h s a).trans (ih (f s a))

theorem beginOp_work (op : OpName) (s : State) : Work s (beginOp op s) := .own
theorem finish_work (s : State) : Work s (finish s) := .own
theorem loadByte_work (b : Byte) (m : Mode) (s : State) : Work s (loadByte b m s) := .own
theorem setReady_work (b : Bool) (s : State) : Work s (setReady b s) := .own
theorem startInit_work (s : State) : Work s (startInit s) := .own
theorem nextInit_work (s : State) : Work s (nextInit s) := .own
theorem loadText_work (text : List Byte) (s : State) : Work s (loadText text s) := .own
theorem nextText_work (s : State) : Work s (nextText s) := .own
theorem storeRequest_work (bytes : List Byte) (s : State) : Work s (storeRequest bytes s) := .own
theorem dropRequest_work (s : State) : Work s (dropRequest s) := .own
theorem storeResponse_work (d : Bool) (s : State) : Work s (storeResponse d s) := .own
theorem dropResponse_work (s : State) : Work s (dropResponse s) := .own
theorem setResult_work (r : Result) (s : State) : Work s { s with result := r } := .own
theorem closeRequest_work (n : Nat) (s : State) : Work s (closeRequest n s) := .own
theorem moveTo_work (st : ByteState) (u : Nat) (s : State) : Work s (moveTo st u s) := .own
theorem enterPhase_work (ph : Phase) (s : State) : Work s (enterPhase ph s) := .own
theorem enterRender_work (operand : List Byte) (s : State) : Work s (enterRender operand s) := .own

theorem barrier_work (s : State) : Work s (barrier s) := (Primitive.barrier s).work
theorem delay_work (d : Nat) (s : State) : Work s (delay d s) := (Primitive.delay d s).work
theorem regWrite_work (r : Reg) (v : Reg32) (s : State) : Work s (regWrite r v s) := (Primitive.write r v s).work

theorem setPin_work (p : Pin) (lvl : Bool) (s : State) : Work s (setPin p lvl s) :=
  ((barrier_work s).trans (regWrite_work _ _ _)).trans (barrier_work _)

theorem configureReg_work (ps : List Pin) (code : BitVec 3) (s : State) (k : Fin 6) : Work s (configureReg ps code s k) :=
  (Primitive.readFsel k s).work.trans (regWrite_work _ _ _)

theorem configurePins_work (ps : List Pin) (dir : PinDirection) (s : State) : Work s (configurePins ps dir s) :=
  ((barrier_work s).trans (Work.foldl _ (configureReg_work ps _) _ _)).trans (barrier_work _)

theorem configureAllBody_work (s : State) : Work s (configureAllBody s) :=
  (configurePins_work _ _ s).trans (configurePins_work _ _ _)

theorem readPin_work (p : Pin) (s : State) : Work s (readPin p s) :=
  (barrier_work s).trans (Primitive.readLev _ _).work

theorem readPinResult_work (p : Pin) (s : State) : Work s (readPinResult p s) :=
  (readPin_work p s).trans (setResult_work _ _)

theorem readReqBody_work (s : State) : Work s (readReqBody s) :=
  (((readPin_work _ s).trans (storeResponse_work _ _)).trans (setResult_work _ _)).trans (dropResponse_work _)

theorem clearLine_work (s : State) (i : Nat) : Work s (clearLine s i) := setPin_work _ _ s

theorem raiseLine_work (n : Nibble) (s : State) (i : Nat) : Work s (raiseLine n s i) := by
  unfold raiseLine
  split
  · exact setPin_work _ _ s
  · exact Work.refl s

theorem loadNibble_work (n : Nibble) (s : State) : Work s (loadNibble n s) :=
  (Work.foldl _ clearLine_work _ s).trans (Work.foldl _ (raiseLine_work n) _ _)

theorem driveE_work (lvl : Bool) (s : State) : Work s (driveE lvl s) := setPin_work _ _ s

theorem setModeLine_work (s : State) : Work s (setModeLine s) := setPin_work _ _ s

theorem latchNibble_work (s : State) : Work s (latchNibble s) :=
  ((((delay_work _ s).trans (driveE_work _ _)).trans (delay_work _ _)).trans (driveE_work _ _)).trans (delay_work _ _)

theorem transmitByte_work (b : Byte) (m : Mode) (s : State) : Work s (transmitByte b m s) :=
  (((((loadByte_work b m s).trans (setModeLine_work _)).trans (loadNibble_work _ _)).trans (latchNibble_work _)).trans
    (loadNibble_work _ _)).trans (latchNibble_work _)

theorem initLoop_work (n : Nat) (s : State) : Work s (initLoop n s) := by
  induction n generalizing s with
  | zero => exact .refl s
  | succ n ih =>
    rw [initLoop]
    split
    · exact ((transmitByte_work _ _ s).trans (nextInit_work _)).trans (ih _)
    · exact .refl s

theorem initBody_work (s : State) : Work s (initBody s) :=
  (((startInit_work s).trans (initLoop_work 6 _)).trans (delay_work _ _)).trans (setReady_work true _)

theorem textLoop_work (n : Nat) (s : State) : Work s (textLoop n s) := by
  induction n generalizing s with
  | zero => exact .refl s
  | succ n ih =>
    rw [textLoop]
    split
    · exact ((transmitByte_work _ _ s).trans (nextText_work _)).trans (ih _)
    · exact .refl s

theorem textBody_work (text : List Byte) (s : State) : Work s (textBody text s) :=
  (loadText_work text s).trans (textLoop_work maxText _)

theorem renderBody_work (text : List Byte) (s : State) : Work s (renderBody text s) :=
  (((configureAllBody_work s).trans (initBody_work _)).trans (delay_work _ _)).trans (textBody_work text _)

theorem writeReqBody_work (bytes : List Byte) (s : State) : Work s (writeReqBody bytes s) := by
  unfold writeReqBody
  split
  · exact ((storeRequest_work bytes s).trans (renderBody_work _ _)).trans (setResult_work _ _)
  · exact ((storeRequest_work bytes s).trans (Primitive.log _).work).trans (setResult_work _ _)

/-! ## The instructions -/

theorem accepted_work {op : OpName} {body : State → State} (hbody : ∀ u, Work u (body u)) (s : State) :
    Work s (finish (body (beginOp op s))) :=
  ((beginOp_work op s).trans (hbody _)).trans (finish_work _)

theorem runOp_work {op : OpName} {body : State → State} (hbody : ∀ u, Work u (body u)) (h : runOp op body s = .next t) :
    Work s t := by
  obtain ⟨-, h⟩ := whenActive_next h
  cases h
  exact accepted_work hbody s

theorem runPinOp_work {op : OpName} {p : Nat} {body : Pin → State → State} (hbody : ∀ q u, Work u (body q u))
    (h : runPinOp op p body s = .next t) : Work s t := by
  obtain ⟨-, h⟩ := whenActive_next h
  split at h <;> cases h
  exact accepted_work (hbody _) s

theorem runTextOp_work {op : OpName} {x : List Byte} {n : Nat} {body : List Byte → State → State}
    (hbody : ∀ text u, Work u (body text u)) (h : runTextOp op x n body s = .next t) : Work s t := by
  obtain ⟨-, h⟩ := whenActive_next h
  split at h <;> cases h
  exact accepted_work (hbody _) s

theorem evaluate_work {r : Result} (h : evaluate r s = .next t) : Work s t := by
  obtain ⟨-, h⟩ := whenActive_next h
  cases h
  exact .own

theorem execAccess_work {r : Reg} {a : Access} (h : execAccess r a s = .next t) : Work s t := by
  obtain ⟨-, h⟩ := whenActive_next h
  unfold accessReg at h
  split at h <;> cases h
  · exact (Primitive.readFsel _ s).work.trans (setResult_work _ _)
  · exact (Primitive.readLev _ s).work.trans (setResult_work _ _)
  all_goals exact (regWrite_work _ _ s).trans (setResult_work _ _)

theorem exec_work {i : Instr} (h : exec i s = .next t) : Work s t := by
  cases i with
  | activate ok =>
    obtain rfl := activate_next h
    cases ok
    · exact .own
    · exact (((Work.own (t := activating s)).trans (configureAllBody_work _)).trans (setResult_work .ok _)).trans (finish_work _)
  | deactivate =>
    obtain rfl := deactivate_next h
    exact .own
  | configure pins dir =>
    obtain ⟨-, h⟩ := whenActive_next h
    split at h <;> cases h
    exact accepted_work (fun u => configurePins_work _ dir u) s
  | set => exact runPinOp_work (fun q u => setPin_work q _ u) h
  | read => exact runPinOp_work (fun q u => readPinResult_work q u) h
  | transmit | writeCommand | writeChar | lcdCommand | lcdChar | init0 | init1 | init2 | init3 | init4 | init5 | notSent28 =>
    exact runOp_work (transmitByte_work _ _) h
  | init => exact runOp_work initBody_work h
  | writeText => exact runTextOp_work textBody_work h
  | configureAll => exact runOp_work configureAllBody_work h
  | ledSet => exact runOp_work (fun u => setPin_work _ _ u) h
  | buttonRead => exact runOp_work (fun u => readPinResult_work _ u) h
  | render => exact runTextOp_work renderBody_work h
  | readReq => exact runOp_work readReqBody_work h
  | writeReq bytes => exact runOp_work (fun u => (writeReqBody_work bytes u).trans (dropRequest_work _)) h
  | gpfsel0 | gpfsel1 | gpfsel2 | gpfsel3 | gpfsel4 | gpfsel5 | gpset0 | gpset1 | gpclr0 | gpclr1 | gplev0 | gplev1 =>
    exact execAccess_work h
  | fselInput | fselOutput | fselAlt2 | fselAlt3 | fselAlt4 | fselAlt5 | fselAlt6 | fselAlt7 | wireReadResp | wireWriteReq =>
    exact evaluate_work h
  | fselPlace p code =>
    simp only [exec, execFselPlace] at h
    split at h
    · exact evaluate_work h
    · cases (whenActive_next h).2
  | pinBit p =>
    simp only [exec, execPinBit] at h
    split at h
    · exact evaluate_work h
    · cases (whenActive_next h).2
  | latchSample =>
    obtain ⟨-, h⟩ := whenActive_next h
    cases h
    exact .own

/-! ## The positions -/

theorem startByte_work (b : Byte) (m : Mode) (s : State) : Work s (startByte b m s) :=
  (loadByte_work b m s).trans (moveTo_work _ _ _)

theorem nextByte_work (more : Bool) (b : Byte) (m : Mode) (s : State) : Work s (nextByte more b m s) := by
  unfold nextByte
  split
  · exact startByte_work b m s
  · exact .refl s

theorem loadStep_work {n : Nibble} {here after : ByteState} {u : Nat} (h : loadStep n here after u s = some t) : Work s t := by
  unfold loadStep at h
  split_ifs at h <;> cases h
  · exact (clearLine_work s u).trans (moveTo_work _ _ _)
  all_goals exact (raiseLine_work n s (u - 4)).trans (moveTo_work _ _ _)

theorem latchStep_work {here after : ByteState} {u : Nat} (h : latchStep here after u s = some t) : Work s t := by
  unfold latchStep at h
  split at h <;> cases h
  case h_2 | h_4 => exact (driveE_work _ s).trans (moveTo_work _ _ _)
  all_goals exact (delay_work tNibbleSettle s).trans (moveTo_work _ _ _)

theorem byteStep_work (h : byteStep s = some t) : Work s t := by
  unfold byteStep at h
  split at h
  · cases h
  · split_ifs at h
    cases h
    exact (setModeLine_work s).trans (moveTo_work _ _ _)
  · exact loadStep_work h
  · exact latchStep_work h
  · exact loadStep_work h
  · exact latchStep_work h

theorem enterInit_work (s : State) : Work s (enterInit s) := (startInit_work s).trans (startByte_work _ _ _)

theorem advanceInit_work (s : State) : Work s (advanceInit s) := (nextInit_work s).trans (nextByte_work _ _ _ _)

theorem enterText_work (text : List Byte) (s : State) : Work s (enterText text s).1 :=
  (loadText_work text s).trans (nextByte_work _ _ _ _)

theorem advanceText_work (s : State) : Work s (advanceText s).1 := (nextText_work s).trans (nextByte_work _ _ _ _)

theorem initStep_work {ended : Bool} (h : initStep s = some (t, ended)) : Work s t := by
  unfold initStep at h
  split_ifs at h
  · split at h
    · next u hu =>
      cases h
      split
      · exact (byteStep_work hu).trans (advanceInit_work u)
      · exact byteStep_work hu
    · cases h
  · cases h
    exact (delay_work tPostClearSettle s).trans (setReady_work true _)

theorem textStep_work {r : State × Bool} (h : textStep s = some r) : Work s r.1 := by
  unfold textStep at h
  split at h
  · next u hu =>
    cases h
    split
    · exact (byteStep_work hu).trans (advanceText_work u)
    · exact byteStep_work hu
  · cases h

theorem finishIf_work (r : State × Bool) : Work r.1 (finishIf r) := by
  unfold finishIf
  split
  · exact finish_work r.1
  · exact .refl r.1

theorem renderStep_work (h : renderStep s = some t) : Work s t := by
  unfold renderStep at h
  split at h
  · cases h
    exact ((configureAllBody_work s).trans (enterInit_work _)).trans (enterPhase_work _ _)
  · split at h
    · next hstep =>
      cases h
      split
      · exact (initStep_work hstep).trans (enterPhase_work _ _)
      · exact initStep_work hstep
    · cases h
  · cases h
    exact (((delay_work tPreRenderSettle s).trans (enterPhase_work _ _)).trans (enterText_work _ _)).trans (finishIf_work _)
  · obtain ⟨r, hr, rfl⟩ := Option.map_eq_some_iff.1 h
    exact (textStep_work hr).trans (finishIf_work r)
  all_goals cases h

/-- A position answers a next state where it has one. -/
theorem orIllegal_next {r : Option State} (h : orIllegal r = .next t) : r = some t := by
  cases r <;> cases h
  rfl

theorem microStep_work (h : microStep s = .next t) : Work s t := by
  unfold microStep at h
  split at h
  case h_4 =>
    obtain ⟨⟨u, ended⟩, hu, rfl⟩ := Option.map_eq_some_iff.1 (orIllegal_next h)
    split
    · exact (initStep_work hu).trans (finish_work _)
    · exact (initStep_work hu).trans (enterPhase_work _ _)
  case h_5 =>
    obtain ⟨r, hr, rfl⟩ := Option.map_eq_some_iff.1 (orIllegal_next h)
    split
    · exact (textStep_work hr).trans (finish_work _)
    · exact (textStep_work hr).trans (enterPhase_work _ _)
  case h_6 => exact renderStep_work (orIllegal_next h)
  case h_7 =>
    obtain ⟨u, hu, rfl⟩ := Option.map_eq_some_iff.1 (orIllegal_next h)
    split
    · exact renderStep_work hu
    · exact (renderStep_work hu).trans (closeRequest_work _ _)
  case h_1 | h_2 | h_3 =>
    obtain ⟨u, hu, rfl⟩ := Option.map_eq_some_iff.1 (orIllegal_next h)
    split
    · exact (byteStep_work hu).trans (finish_work u)
    · exact byteStep_work hu
  all_goals cases h

theorem launchByte_work {op : OpName} {b : Byte} {m : Mode} (h : launchByte op b m s = .next t) : Work s t := by
  obtain ⟨-, h⟩ := whenActive_next h
  cases h
  exact (beginOp_work op s).trans (startByte_work b m _)

/-- The rows whose accepted form has positions, or is refused before its first (log 11). -/
def hasPositions : Instr → Bool
  | .transmit _ _ | .writeCommand _ | .writeChar _ | .init | .writeText _ _ | .render _ _ | .writeReq _ | .lcdCommand _ | .lcdChar _
  | .init0 | .init1 | .init2 | .init3 | .init4 | .init5 | .notSent28 => true
  | .configure _ _ | .set _ _ | .read _ | .configureAll | .ledSet _ | .buttonRead | .activate _ | .deactivate | .readReq
  | .gpfsel0 _ | .gpfsel1 _ | .gpfsel2 _ | .gpfsel3 _ | .gpfsel4 _ | .gpfsel5 _ | .gpset0 _ | .gpset1 _ | .gpclr0 _
  | .gpclr1 _ | .gplev0 _ | .gplev1 _ | .fselInput | .fselOutput | .fselAlt2 | .fselAlt3 | .fselAlt4 | .fselAlt5
  | .fselAlt6 | .fselAlt7 | .fselPlace _ _ | .pinBit _ | .latchSample | .wireReadResp _ | .wireWriteReq _ => false

/-- A row without positions is over in the step that accepts it. -/
theorem launch_eq_exec {i : Instr} (hi : hasPositions i = false) (s : State) : launch i s = exec i s := by
  cases i with
  | transmit | writeCommand | writeChar | init | writeText | render | writeReq | lcdCommand | lcdChar | init0 | init1 | init2
  | init3 | init4 | init5 | notSent28 => cases hi
  | _ => rfl

theorem launch_work {i : Instr} (h : launch i s = .next t) : Work s t := by
  cases i with
  | transmit | writeCommand | writeChar | lcdCommand | lcdChar | init0 | init1 | init2 | init3 | init4 | init5 | notSent28 =>
    exact launchByte_work h
  | init =>
    obtain ⟨-, h⟩ := whenActive_next h
    cases h
    exact ((beginOp_work .init s).trans (enterInit_work _)).trans (enterPhase_work _ _)
  | writeText x n =>
    obtain ⟨-, h⟩ := whenActive_next h
    split at h <;> cases h
    next text _ =>
    have hbegin := (beginOp_work .writeText s).trans (enterText_work text _)
    split
    · exact hbegin.trans (finish_work _)
    · exact hbegin.trans (enterPhase_work _ _)
  | render x n =>
    obtain ⟨-, h⟩ := whenActive_next h
    split at h <;> cases h
    exact (beginOp_work .render s).trans (enterRender_work _ _)
  | writeReq bytes =>
    obtain ⟨-, h⟩ := whenActive_next h
    split at h
    · cases h
      exact ((beginOp_work .writeReq s).trans (storeRequest_work bytes _)).trans (enterRender_work _ _)
    · exact exec_work h
  | _ => exact exec_work ((launch_eq_exec rfl s).symm.trans h)

theorem perform_work {i : Instr} (h : perform i s = .next t) : Work s t := by
  unfold perform at h
  split at h
  · exact exec_work h
  · exact launch_work h

/-- A step is work on the state with the request port moved on. -/
theorem step_work (h : step s = .next t) : Work s t := by
  have hport (rest : List (Option Presented)) : Work s { s with port := rest } := .own
  obtain ⟨_, rest, _, _, -, -, -, h⟩ | ⟨-, h⟩ | ⟨-, rfl⟩ := step_next_cases h
  · exact (hport rest).trans (perform_work h)
  · exact (hport _).trans (microStep_work h)
  · exact hport _

/-- Settles O6: no primitive writes the parameters. -/
theorem stepKeepsParameters : Obligations.StepKeepsParameters := by
  unfold Obligations.StepKeepsParameters
  exact fun s t h => (step_work h).cfg_eq

/-- Settles O5: each primitive of a step accounts for its events. -/
theorem stepAccountsForTrace : Obligations.StepAccountsForTrace := by
  unfold Obligations.StepAccountsForTrace
  intro s t hvalid h
  obtain ⟨es, hacc⟩ := (step_work h).accounted rfl hvalid
  obtain ⟨ls, hlatched, hsamples⟩ := hacc.latched
  exact ⟨es, ls, hacc.trace, hlatched, hacc.dev, hacc.now, hacc.logCnt, hsamples⟩

end Sys2Proof.Machine
end

section
/-!
PROOFS. What the operations of the display do not see: an update of the fields that none of them reads or writes (the position `SEQ`, the
operand held, the request buffer, the external levels) commutes with each of them.
-/

namespace Sys2Proof.Machine

/-- The update `u` writes no field that an operation of the GPIO bank or of the display reads or writes, and reads none. -/
structure Unseen (u : State → State) : Prop where
  cfg (s : State) : (u s).cfg = s.cfg
  dev (s : State) : (u s).dev = s.dev
  mode (s : State) : (u s).mode = s.mode
  byte (s : State) : (u s).byte = s.byte
  txt (s : State) : (u s).txt = s.txt
  cnt (s : State) : (u s).cnt = s.cnt
  idx (s : State) : (u s).idx = s.idx
  initIdx (s : State) : (u s).initIdx = s.initIdx
  emit (e : Event) (s : State) : emit e (u s) = u (emit e s)
  delay (d : Nat) (s : State) : delay d (u s) = u (delay d s)
  regWrite (r : Reg) (v : Reg32) (s : State) : regWrite r v (u s) = u (regWrite r v s)
  loadByte (b : Byte) (m : Mode) (s : State) : loadByte b m (u s) = u (loadByte b m s)
  startInit (s : State) : startInit (u s) = u (startInit s)
  nextInit (s : State) : nextInit (u s) = u (nextInit s)
  setReady (b : Bool) (s : State) : setReady b (u s) = u (setReady b s)
  loadText (text : List Byte) (s : State) : loadText text (u s) = u (loadText text s)
  nextText (s : State) : nextText (u s) = u (nextText s)

/-- `SEQ` put at a position, and the operand held. -/
def place (q : Seq) (operand : List Byte) (s : State) : State := { s with seq := q, arg := operand }

theorem unseen_place (q : Seq) (operand : List Byte) : Unseen (place q operand) := by
  constructor <;> intros <;> rfl

theorem unseen_moveTo (st : ByteState) (u : Nat) : Unseen (moveTo st u) := by
  constructor <;> intros <;> rfl

theorem unseen_storeRequest (bytes : List Byte) : Unseen (storeRequest bytes) := by
  constructor <;> intros <;> rfl

/-- The external levels to come replaced. -/
def setExt (ext : List (BitVec 54)) (s : State) : State := { s with extIn := ext }

theorem unseen_setExt (ext : List (BitVec 54)) : Unseen (setExt ext) := by
  constructor <;> intros <;> rfl

namespace Unseen

variable {u : State → State} (hu : Unseen u)
include hu

theorem barrier (s : State) : barrier (u s) = u (barrier s) := hu.emit .bar s

theorem setPin (p : Pin) (lvl : Bool) (s : State) : setPin p lvl (u s) = u (setPin p lvl s) := by
  rw [Machine.setPin, hu.barrier, hu.regWrite, hu.barrier, Machine.setPin]

theorem configureReg (ps : List Pin) (code : BitVec 3) (s : State) (k : Fin 6) :
    configureReg ps code (u s) k = u (configureReg ps code s k) := by
  simp only [Machine.configureReg, readFsel, hu.cfg, hu.dev, hu.emit, hu.regWrite]

theorem configurePins (ps : List Pin) (dir : PinDirection) (s : State) :
    configurePins ps dir (u s) = u (configurePins ps dir s) := by
  rw [Machine.configurePins, hu.cfg, hu.barrier, List.foldl_hom u (hu.configureReg ps _), hu.barrier, Machine.configurePins]

theorem configureAllBody (s : State) : configureAllBody (u s) = u (configureAllBody s) := by
  rw [Machine.configureAllBody, hu.cfg, hu.configurePins, hu.configurePins, Machine.configureAllBody]

theorem clearLine (s : State) (i : Nat) : clearLine (u s) i = u (clearLine s i) := by
  rw [Machine.clearLine, hu.cfg, hu.setPin, Machine.clearLine]

theorem raiseLine (n : Nibble) (s : State) (i : Nat) : raiseLine n (u s) i = u (raiseLine n s i) := by
  rw [Machine.raiseLine, hu.cfg, hu.setPin, Machine.raiseLine, ← apply_ite u]

theorem loadNibble (n : Nibble) (s : State) : loadNibble n (u s) = u (loadNibble n s) := by
  rw [Machine.loadNibble, clearLines, List.foldl_hom u hu.clearLine, raiseLines, List.foldl_hom u (hu.raiseLine n)]
  rfl

theorem driveE (lvl : Bool) (s : State) : driveE lvl (u s) = u (driveE lvl s) := by
  rw [Machine.driveE, hu.cfg, hu.setPin, Machine.driveE]

theorem setModeLine (s : State) : setModeLine (u s) = u (setModeLine s) := by
  rw [Machine.setModeLine, hu.cfg, hu.mode, hu.setPin, Machine.setModeLine]

theorem latchNibble (s : State) : latchNibble (u s) = u (latchNibble s) := by
  rw [Machine.latchNibble, hu.delay, hu.driveE, hu.delay, hu.driveE, hu.delay, Machine.latchNibble]

theorem transmitByte (b : Byte) (m : Mode) (s : State) : transmitByte b m (u s) = u (transmitByte b m s) := by
  rw [Machine.transmitByte, hu.loadByte, hu.setModeLine, hu.loadNibble, hu.latchNibble, hu.loadNibble, hu.latchNibble,
    Machine.transmitByte]

theorem initLoop (k : Nat) (s : State) : initLoop k (u s) = u (initLoop k s) := by
  induction k generalizing s with
  | zero => rfl
  | succ k ih => rw [Machine.initLoop, hu.initIdx, hu.transmitByte, hu.nextInit, ih, Machine.initLoop, ← apply_ite u]

theorem initBody (s : State) : initBody (u s) = u (initBody s) := by
  rw [Machine.initBody, hu.startInit, hu.initLoop, hu.delay, hu.setReady, Machine.initBody]

theorem textLoop (k : Nat) (s : State) : textLoop k (u s) = u (textLoop k s) := by
  induction k generalizing s with
  | zero => rfl
  | succ k ih =>
    rw [Machine.textLoop, hu.idx, hu.cnt, hu.txt, hu.transmitByte, hu.nextText, ih, Machine.textLoop, ← apply_ite u]

theorem textBody (text : List Byte) (s : State) : textBody text (u s) = u (textBody text s) := by
  rw [Machine.textBody, hu.loadText, hu.textLoop, Machine.textBody]

theorem renderBody (text : List Byte) (s : State) : renderBody text (u s) = u (renderBody text s) := by
  rw [Machine.renderBody, hu.configureAllBody, hu.initBody, hu.delay, hu.textBody, Machine.renderBody]

end Unseen

end Sys2Proof.Machine
end

section
/-!
PROOFS. The table of a byte transfer (spec/41_lcd_transfer.md R162): one action, one list of events and one next position for each of
its rows.
-/

namespace Sys2Proof.Machine

variable {c : Config} {s t : State}

/-! ## The table of a transfer, by its action -/

/-- The position after a position of the table. -/
def nextRow : ByteState → Nat → ByteState × Nat
  | .idle, u => (.idle, u)
  | .setMode, _ => (.loadHighNibble, 0)
  | .loadHighNibble, u => if u = 7 then (.latchHigh, 0) else (.loadHighNibble, u + 1)
  | .latchHigh, u => if u = 4 then (.loadLowNibble, 0) else (.latchHigh, u + 1)
  | .loadLowNibble, u => if u = 7 then (.latchLow, 0) else (.loadLowNibble, u + 1)
  | .latchLow, u => if u = 4 then (.idle, 0) else (.latchLow, u + 1)

/-- The action at position `u` of a nibble load: four clears, then four raises (41 R164). -/
def loadRow (n : Nibble) (u : Nat) (s : State) : State := if u < 4 then clearLine s u else raiseLine n s (u - 4)

/-- The action at position `u` of a latch (41 R165). -/
def latchRow (u : Nat) (s : State) : State :=
  if u = 1 then driveE true s else if u = 3 then driveE false s else delay tNibbleSettle s

/-- The action of a position of the table. -/
def rowAction (st : ByteState) (u : Nat) (s : State) : State :=
  match st with
  | .idle => s
  | .setMode => setModeLine s
  | .loadHighNibble => loadRow (highNibble s.byte) u s
  | .loadLowNibble => loadRow (lowNibble s.byte) u s
  | .latchHigh | .latchLow => latchRow u s

/-- The row at which `SEQ` stands performed: its action, and `SEQ` at the next position. -/
def byteNext (s : State) : State :=
  moveTo (nextRow s.seq.st s.seq.u).1 (nextRow s.seq.st s.seq.u).2 (rowAction s.seq.st s.seq.u s)

theorem loadStep_eq (n : Nibble) (here after : ByteState) {u : Nat} (hu : u < 8) (s : State) :
    loadStep n here after u s =
      some (moveTo (if u = 7 then (after, 0) else (here, u + 1)).1 (if u = 7 then (after, 0) else (here, u + 1)).2
        (loadRow n u s)) := by
  unfold loadStep loadRow
  by_cases h4 : u < 4
  · rw [if_pos h4, if_neg (by omega : u ≠ 7), if_pos h4]
  · by_cases h7 : u = 7 <;> simp [h4, hu, h7]

theorem latchStep_eq (here after : ByteState) {u : Nat} (hu : u < 5) (s : State) :
    latchStep here after u s =
      some (moveTo (if u = 4 then (after, 0) else (here, u + 1)).1 (if u = 4 then (after, 0) else (here, u + 1)).2
        (latchRow u s)) := by
  interval_cases u <;> rfl

/-- At a position of the table a byte step performs its row. -/
theorem byteStep_eq (h : bytePosition s.seq = true) : byteStep s = some (byteNext s) := by
  unfold bytePosition at h
  unfold byteStep byteNext rowAction
  cases hst : s.seq.st <;> simp only [hst, decide_eq_true_eq] at h ⊢
  case idle => cases h
  case setMode => rw [if_pos h]; rfl
  case loadHighNibble | loadLowNibble => exact loadStep_eq _ _ _ h s
  case latchHigh | latchLow => exact latchStep_eq _ _ h s

theorem loadRow_frame (n : Nibble) (u : Nat) (s : State) : PinFrame s (loadRow n u s) := by
  unfold loadRow
  split
  · exact clearLine_frame s u
  · exact raiseLine_frame n s _

theorem latchRow_frame (u : Nat) (s : State) : PinFrame s (latchRow u s) := by
  unfold latchRow
  split_ifs
  · exact driveE_frame true s
  · exact driveE_frame false s
  · exact delay_frame _ s

theorem rowAction_frame (st : ByteState) (u : Nat) (s : State) : PinFrame s (rowAction st u s) := by
  unfold rowAction
  split
  · exact .refl s
  · exact setPin_frame _ _ s
  · exact loadRow_frame _ _ s
  · exact loadRow_frame _ _ s
  all_goals exact latchRow_frame _ s

/-- A row moves `SEQ` and otherwise keeps the frame. -/
theorem byteNext_frame (s : State) :
    byteNext s = { s with dev := (byteNext s).dev, now := (byteNext s).now, trace := (byteNext s).trace,
                          latched := (byteNext s).latched, draws := (byteNext s).draws,
                          seq := { s.seq with st := (nextRow s.seq.st s.seq.u).1, u := (nextRow s.seq.st s.seq.u).2 } } :=
  congrArg (moveTo _ _) (rowAction_frame _ _ s)

/-! ## The events of a row -/

/-- The events at position `u` of a nibble load. -/
def loadRowEvents (c : Config) (n : Nibble) (u : Nat) : List Event :=
  if u < 4 then setEvents c (dpin c.pins u) false
  else if n.getLsbD (u - 4) then setEvents c (dpin c.pins (u - 4)) true else []

/-- The events at position `u` of a latch. -/
def latchRowEvents (c : Config) (u : Nat) : List Event :=
  if u = 1 then setEvents c c.pins.e true else if u = 3 then setEvents c c.pins.e false else [.dly 500]

/-- The events of a row of the table. -/
def rowEvents (c : Config) (b : Byte) (m : Mode) : ByteState → Nat → List Event
  | .idle, _ => []
  | .setMode, _ => setEvents c c.pins.rs m.bit
  | .loadHighNibble, u => loadRowEvents c (highNibble b) u
  | .loadLowNibble, u => loadRowEvents c (lowNibble b) u
  | .latchHigh, u | .latchLow, u => latchRowEvents c u

theorem loadRow_accounted (n : Nibble) (u : Nat) (hc : s.cfg = c) (h : c.valid = true) :
    Accounted c s (loadRow n u s) (loadRowEvents c n u) := by
  unfold loadRow loadRowEvents
  split
  · exact clearLine_accounted u s hc h
  · exact raiseLine_accounted n (u - 4) s hc h

theorem latchRow_accounted (u : Nat) (hc : s.cfg = c) (h : c.valid = true) :
    Accounted c s (latchRow u s) (latchRowEvents c u) := by
  unfold latchRow latchRowEvents
  split_ifs
  · exact driveE_accounted true s hc h
  · exact driveE_accounted false s hc h
  · exact delay_accounted tNibbleSettle s hc

theorem rowAction_accounted (hc : s.cfg = c) (h : c.valid = true) (st : ByteState) (u : Nat) :
    Accounted c s (rowAction st u s) (rowEvents c s.byte s.mode st u) := by
  cases st with
  | idle => exact .refl s hc
  | setMode => exact setModeLine_accounted s hc h
  | loadHighNibble | loadLowNibble => exact loadRow_accounted _ _ hc h
  | latchHigh | latchLow => exact latchRow_accounted _ hc h

/-- What accounts for a list of events still does after an update of the block's own fields. -/
theorem Accounted.own {u : State} {es : List Event} (h : Accounted c s t es) (k : Bookkeeping t u) : Accounted c s u es := by
  have hall := h.trans (.of_eq h.cfg k.cfg k.trace k.dev k.now k.logCnt k.latched)
  rwa [List.append_nil] at hall

theorem byteNext_accounted (hc : s.cfg = c) (h : c.valid = true) :
    Accounted c s (byteNext s) (rowEvents c s.byte s.mode s.seq.st s.seq.u) :=
  (rowAction_accounted hc h _ _).own ⟨rfl, rfl, rfl, rfl, rfl, rfl⟩

/-- The table of 41 R162 has these events and these next positions. -/
theorem transferRow_eq (b : Byte) (m : Mode) {q : Seq} (h : bytePosition q = true) :
    transferRow c b m q.st q.u = some (rowEvents c b m q.st q.u, nextRow q.st q.u) := by
  obtain ⟨op, ph, st, u⟩ := q
  cases st <;> simp only [bytePosition, decide_eq_true_eq] at h
  case idle => cases h
  case setMode => subst h; rfl
  case loadHighNibble | loadLowNibble =>
    interval_cases u <;> simp [transferRow, rowEvents, loadRowEvents, nextRow, highNibble, lowNibble, dpin]
  case latchHigh | latchLow => interval_cases u <;> rfl

theorem bytePosition_of_transferRow {b : Byte} {m : Mode} {q : Seq} {r : List Event × ByteState × Nat}
    (h : transferRow c b m q.st q.u = some r) : bytePosition q = true := by
  obtain ⟨op, ph, st, u⟩ := q
  dsimp only at h
  unfold transferRow at h
  split at h
  case h_28 => cases h
  all_goals rfl

end Sys2Proof.Machine
end

section
/-!
PROOFS. A transfer inside an operation (spec/41_lcd_transfer.md R162, spec/42_lcd_sequences.md R190, R195): which operations carry one, what
a micro-step makes of its rows there, and that the 27 rows are the whole transfer.
-/

namespace Sys2Proof.Machine

variable {c : Config} {s t : State}

/-! ## A row inside an operation -/

/-- The operation in progress has the block in a transfer: a lone one, the byte of `INITIDX` of `INIT`, or a byte of `WRITE_TEXT`. -/
def carriesByte (s : State) : Bool :=
  match s.seq.op with
  | .transmit | .writeCommand | .writeChar => true
  | .init => decide (s.seq.phase = .byte s.initIdx) && decide (s.initIdx < 6)
  | .writeText => decide (s.seq.phase = .byte s.idx)
  | .render | .writeReq => decide (s.seq.phase = .init) && decide (s.initIdx < 6) || decide (s.seq.phase = .text)
  | .idle | .configure | .set | .read | .configureAll | .ledSet | .buttonRead | .activate | .deactivate | .readReq => false

theorem bytePosition_idle {q : Seq} (h : q.st = .idle) : bytePosition q = false := by
  rw [bytePosition, h]

theorem bytePosition_of_initPosition (h : initPosition s = true) (hst : s.seq.st ≠ .idle) :
    s.initIdx < 6 ∧ bytePosition s.seq = true := by
  simpa [initPosition, hst] using h

/-- A legal position inside a byte is one of an operation that carries it. -/
theorem carriesByte_of_positionLegal (hl : positionLegal s = true) (hb : bytePosition s.seq = true) : carriesByte s = true := by
  have hst : s.seq.st ≠ .idle := fun h => by rw [bytePosition_idle h] at hb; cases hb
  unfold positionLegal at hl
  unfold carriesByte
  split at hl
  case h_4 hop =>
    rw [Bool.and_eq_true, decide_eq_true_eq] at hl
    obtain ⟨hphase, hinit⟩ := hl
    obtain ⟨hidx, -⟩ := bytePosition_of_initPosition hinit hst
    rw [if_pos hidx] at hphase
    simp [hop, hphase, hidx]
  case h_5 hop =>
    rw [Bool.and_eq_true] at hl
    simp [hop, of_decide_eq_true hl.1]
  case h_6 hop | h_7 hop =>
    split at hl
    case h_3 hphase =>
      rw [Bool.and_eq_true] at hl
      simp [hop, hphase, (bytePosition_of_initPosition hl.2 hst).1]
    case h_4 hphase => simp [hop, hphase]
    all_goals simp [hst] at hl
  case h_1 hop | h_2 hop | h_3 hop => simp [hop]
  all_goals cases hl

/-- The byte in flight ends with this row. -/
def lastRow (s : State) : Bool := decide ((nextRow s.seq.st s.seq.u).1 = .idle)

theorem initStep_byte (hidx : s.initIdx < 6) (hb : bytePosition s.seq = true) :
    initStep s = some (if lastRow s then advanceInit (byteNext s) else byteNext s, false) := by
  rw [initStep, if_pos hidx, byteStep_eq hb]
  rfl

theorem textStep_byte (hb : bytePosition s.seq = true) :
    textStep s = some (if lastRow s then advanceText (byteNext s) else (byteNext s, false)) := by
  rw [textStep, byteStep_eq hb]
  rfl

@[simp] theorem byteNext_op (s : State) : (byteNext s).seq.op = s.seq.op := by rw [byteNext_frame]
@[simp] theorem byteNext_phase (s : State) : (byteNext s).seq.phase = s.seq.phase := by rw [byteNext_frame]
@[simp] theorem byteNext_initIdx (s : State) : (byteNext s).initIdx = s.initIdx := by rw [byteNext_frame]
@[simp] theorem byteNext_idx (s : State) : (byteNext s).idx = s.idx := by rw [byteNext_frame]
@[simp] theorem byteNext_cnt (s : State) : (byteNext s).cnt = s.cnt := by rw [byteNext_frame]
@[simp] theorem byteNext_txt (s : State) : (byteNext s).txt = s.txt := by rw [byteNext_frame]
@[simp] theorem byteNext_busy (s : State) : (byteNext s).busy = s.busy := by rw [byteNext_frame]

@[simp] theorem nextByte_busy (more : Bool) (b : Byte) (m : Mode) (s : State) : (nextByte more b m s).busy = s.busy := by
  cases more <;> rfl

@[simp] theorem advanceInit_busy (s : State) : (advanceInit s).busy = s.busy := nextByte_busy _ _ _ _

@[simp] theorem advanceText_busy (s : State) : (advanceText s).1.busy = s.busy := nextByte_busy _ _ _ _

theorem enterPhase_same {ph : Phase} (h : s.seq.phase = ph) : enterPhase ph s = s := by
  subst h
  rfl

/-- `PHASE` follows the index in a lone `INIT` or `WRITE_TEXT`; inside another operation it stays (log 25). -/
def phaseAt (op : OpName) (s : State) : Phase :=
  match op with
  | .init => if s.initIdx < 6 then .byte s.initIdx else .postClear
  | .writeText => .byte s.idx
  | _ => s.seq.phase

/-- `PHASE` moved to where the operation has it. -/
def markPhase (op : OpName) (s : State) : State := enterPhase (phaseAt op s) s

/-- Where a write request is over, its request ends with it (44 R250). -/
def wrapUp (s u : State) : State := if s.seq.op = .writeReq then closeRequest s.arg.length u else u

@[simp] theorem wrapUp_seq (s u : State) : (wrapUp s u).seq = u.seq := by unfold wrapUp; split <;> rfl
@[simp] theorem wrapUp_busy (s u : State) : (wrapUp s u).busy = u.busy := by unfold wrapUp; split <;> rfl
@[simp] theorem wrapUp_idx (s u : State) : (wrapUp s u).idx = u.idx := by unfold wrapUp; split <;> rfl

/-- A row that is not the last of its byte is performed, and nothing else (41 R162). -/
theorem microStep_row (hc : carriesByte s = true) (hb : bytePosition s.seq = true) (hbusy : s.busy = true)
    (hlast : lastRow s = false) : microStep s = .next (byteNext s) := by
  have hstep := byteStep_eq hb
  have hover : byteOver (byteNext s) = false := hlast
  unfold carriesByte at hc
  split at hc
  case h_1 hop | h_2 hop | h_3 hop => simp [microStep, hop, hstep, hover, orIllegal]
  case h_4 hop =>
    simp only [Bool.and_eq_true, decide_eq_true_eq] at hc
    obtain ⟨hphase, hidx⟩ := hc
    have hmark : initPhase (byteNext s) = byteNext s := enterPhase_same (by simp [hphase, hidx])
    simp [microStep, hop, initStep_byte hidx hb, hlast, hmark, orIllegal]
  case h_5 hop =>
    have hmark : textPhase (byteNext s) = byteNext s := enterPhase_same (by simpa using hc)
    simp [microStep, hop, textStep_byte hb, hlast, hmark, orIllegal]
  case h_6 hop | h_7 hop =>
    simp only [Bool.or_eq_true, Bool.and_eq_true, decide_eq_true_eq] at hc
    obtain ⟨hphase, hidx⟩ | hphase := hc
    · simp [microStep, hop, renderStep, hphase, initStep_byte hidx hb, hlast, hbusy, orIllegal]
    · simp [microStep, hop, renderStep, hphase, textStep_byte hb, hlast, hbusy, orIllegal, finishIf]
  all_goals cases hc

/-- The last row of a lone transfer ends it (41 R162). -/
theorem microStep_lastRow (hop : s.seq.op ∈ [OpName.transmit, .writeCommand, .writeChar]) (hb : bytePosition s.seq = true)
    (hlast : lastRow s = true) : microStep s = .next (finish (byteNext s)) := by
  have hover : byteOver (byteNext s) = true := hlast
  simp only [List.mem_cons, List.not_mem_nil, or_false] at hop
  obtain hop | hop | hop := hop <;> simp [microStep, hop, byteStep_eq hb, hover, orIllegal]

/-- The last row of a byte of `INIT` goes on to the next index (42 R190). -/
theorem microStep_lastRow_init (hi : initInProgress s = true) (hidx : s.initIdx < 6) (hb : bytePosition s.seq = true)
    (hbusy : s.busy = true) (hlast : lastRow s = true) :
    microStep s = .next (markPhase s.seq.op (advanceInit (byteNext s))) := by
  unfold initInProgress at hi
  split at hi
  case h_1 hop =>
    simp only [microStep, hop, initStep_byte hidx hb, hlast, if_true]
    rfl
  case h_2 hop | h_3 hop =>
    simp [microStep, hop, renderStep, of_decide_eq_true hi, initStep_byte hidx hb, hlast, hbusy, orIllegal, markPhase, phaseAt,
      enterPhase_same]
  all_goals cases hi

/-- The last row of a byte of `WRITE_TEXT` goes on to the next index, or ends the text and what it stands in (42 R195). -/
theorem microStep_lastRow_text (ht : writeTextInProgress s = true) (hb : bytePosition s.seq = true) (hbusy : s.busy = true)
    (hlast : lastRow s = true) :
    microStep s = .next (if (advanceText (byteNext s)).2 then wrapUp s (finish (advanceText (byteNext s)).1)
      else markPhase s.seq.op (advanceText (byteNext s)).1) := by
  unfold writeTextInProgress at ht
  split at ht
  case h_1 hop =>
    simp only [microStep, hop, textStep_byte hb, hlast, if_true, wrapUp]
    rfl
  case h_2 hop | h_3 hop =>
    cases hmore : (advanceText (byteNext s)).2 <;>
      simp [microStep, hop, renderStep, of_decide_eq_true ht, textStep_byte hb, hlast, hbusy, orIllegal, finishIf, markPhase, phaseAt,
        enterPhase_same, wrapUp, hmore]
  all_goals cases ht

/-! ## 27 rows -/

/-- How many rows of the table are left, the one at which `SEQ` stands included. -/
def rowsLeft (q : Seq) : Nat :=
  match q.st with
  | .idle => 0
  | .setMode => 27
  | .loadHighNibble => 26 - q.u
  | .latchHigh => 18 - q.u
  | .loadLowNibble => 13 - q.u
  | .latchLow => 5 - q.u

theorem rowsLeft_byteNext (hb : bytePosition s.seq = true) : rowsLeft (byteNext s).seq + 1 = rowsLeft s.seq := by
  rw [byteNext, moveTo_seq]
  generalize rowAction _ _ s = t
  unfold bytePosition at hb
  unfold rowsLeft nextRow
  cases hst : s.seq.st <;> simp only [hst, decide_eq_true_eq] at hb ⊢
  case idle => cases hb
  case loadHighNibble | loadLowNibble => by_cases h7 : s.seq.u = 7 <;> simp [h7]; omega
  case latchHigh | latchLow => by_cases h4 : s.seq.u = 4 <;> simp [h4]; omega

theorem bytePosition_byteNext (hb : bytePosition s.seq = true) (hlast : lastRow s = false) : bytePosition (byteNext s).seq = true := by
  rw [byteNext, moveTo_seq]
  generalize rowAction _ _ s = t
  unfold bytePosition at hb ⊢
  unfold lastRow at hlast
  unfold nextRow at hlast ⊢
  cases hst : s.seq.st <;> simp only [hst, decide_eq_true_eq] at hb hlast ⊢
  case idle => cases hb
  case setMode => decide
  case loadHighNibble | loadLowNibble => by_cases h7 : s.seq.u = 7 <;> simp [h7]; omega
  case latchHigh => by_cases h4 : s.seq.u = 4 <;> simp [h4]; omega
  case latchLow => by_cases h4 : s.seq.u = 4 <;> simp [h4] at hlast ⊢; omega

theorem rowsLeft_eq_one (hb : bytePosition s.seq = true) (hlast : lastRow s = true) : rowsLeft s.seq = 1 := by
  have hnext : (nextRow s.seq.st s.seq.u).1 = .idle := of_decide_eq_true hlast
  rw [← rowsLeft_byteNext hb, byteNext, moveTo_seq, rowsLeft]
  simp [hnext]

theorem carriesByte_byteNext (s : State) : carriesByte (byteNext s) = carriesByte s := by
  simp [carriesByte]

/-- A transfer in progress, with `k` rows left. -/
structure InTransfer (s : State) (k : Nat) : Prop where
  busy : s.busy = true
  carries : carriesByte s = true
  position : bytePosition s.seq = true
  rows : rowsLeft s.seq = k

/-- Fewer positions than there are rows left are that many rows. -/
theorem runPositions_rows (k : Nat) {n : Nat} (h : InTransfer s (n + 1 + k)) :
    runPositions k s = .next (byteNext^[k] s) ∧ InTransfer (byteNext^[k] s) (n + 1) := by
  induction k generalizing s with
  | zero => exact ⟨rfl, h⟩
  | succ k ih =>
    have hlast : lastRow s = false := by
      rw [← Bool.not_eq_true]
      intro hlast
      have hone := rowsLeft_eq_one h.position hlast
      have hrows := h.rows
      omega
    have hnext : InTransfer (byteNext s) (n + 1 + k) :=
      ⟨by rw [byteNext_busy, h.busy], by rw [carriesByte_byteNext, h.carries], bytePosition_byteNext h.position hlast, by
        have hleft := rowsLeft_byteNext h.position
        have hrows := h.rows
        omega⟩
    obtain ⟨hrun, hin⟩ := ih hnext
    rw [runPositions, if_pos h.busy, microStep_row h.carries h.position h.busy hlast]
    exact ⟨hrun, hin⟩

theorem Unseen.rowAction {u : State → State} (hu : Unseen u) (st : ByteState) (p : Nat) (s : State) :
    rowAction st p (u s) = u (rowAction st p s) := by
  cases st with
  | idle => rfl
  | setMode => exact hu.setModeLine s
  | loadHighNibble | loadLowNibble =>
    simp only [Machine.rowAction, loadRow, hu.byte, hu.clearLine, hu.raiseLine, apply_ite u]
  | latchHigh | latchLow => simp only [Machine.rowAction, latchRow, hu.driveE, hu.delay, apply_ite u]

theorem byteNext_moveTo (st : ByteState) (u : Nat) (s : State) :
    byteNext (moveTo st u s) = moveTo (nextRow st u).1 (nextRow st u).2 (rowAction st u s) := by
  calc
    _ = moveTo (nextRow st u).1 (nextRow st u).2 (rowAction st u (moveTo st u s)) := rfl
    _ = moveTo (nextRow st u).1 (nextRow st u).2 (moveTo st u (rowAction st u s)) := by rw [(unseen_moveTo st u).rowAction]

@[simp] theorem loadRow_byte (n : Nibble) (u : Nat) (s : State) : (loadRow n u s).byte = s.byte := by rw [loadRow_frame n u s]

theorem byteNext_load_high (s : State) :
    byteNext^[8] (moveTo .loadHighNibble 0 s) = moveTo .latchHigh 0 (loadNibble (highNibble s.byte) s) := by
  simp [Function.iterate_succ_apply, byteNext_moveTo, nextRow, rowAction]
  rfl

theorem byteNext_load_low (s : State) :
    byteNext^[8] (moveTo .loadLowNibble 0 s) = moveTo .latchLow 0 (loadNibble (lowNibble s.byte) s) := by
  simp [Function.iterate_succ_apply, byteNext_moveTo, nextRow, rowAction]
  rfl

theorem byteNext_latch_high (s : State) : byteNext^[5] (moveTo .latchHigh 0 s) = moveTo .loadLowNibble 0 (latchNibble s) := by
  simp [Function.iterate_succ_apply, byteNext_moveTo, nextRow, rowAction]
  rfl

theorem byteNext_latch_low (s : State) : byteNext^[5] (moveTo .latchLow 0 s) = moveTo .idle 0 (latchNibble s) := by
  simp [Function.iterate_succ_apply, byteNext_moveTo, nextRow, rowAction]
  rfl

/-- The 27 rows are the transfer (41 R161, R162). -/
theorem byteNext_transfer (b : Byte) (m : Mode) (s : State) :
    byteNext^[27] (startByte b m s) = moveTo .idle 0 (transmitByte b m s) := by
  have hbyte₁ : (setModeLine (loadByte b m s)).byte = b := rfl
  have hbyte₂ : (latchNibble (loadNibble (highNibble b) (setModeLine (loadByte b m s)))).byte = b := by
    rw [latchNibble_frame, loadNibble_frame]
    rfl
  have hmode : byteNext (startByte b m s) = moveTo .loadHighNibble 0 (setModeLine (loadByte b m s)) := byteNext_moveTo _ _ _
  have hall : byteNext^[27] (startByte b m s) = byteNext^[5] (byteNext^[8] (byteNext^[5] (byteNext^[8] (byteNext (startByte b m s))))) := by
    simp only [← Function.iterate_succ_apply, ← Function.iterate_add_apply]
  rw [hall, hmode, byteNext_load_high, hbyte₁, byteNext_latch_high, byteNext_load_low, hbyte₂, byteNext_latch_low]
  rfl

/-- At the last of the rows, the byte ends. -/
theorem InTransfer.lastRow (h : InTransfer s 1) : lastRow s = true := by
  rw [← Bool.not_eq_false]
  intro hlast
  have hnext := bytePosition_byteNext h.position hlast
  have hleft := rowsLeft_byteNext h.position
  have hrows := h.rows
  have hzero : rowsLeft (byteNext s).seq = 0 := by omega
  generalize (byteNext s).seq = q at hnext hzero
  obtain ⟨op, ph, st, u⟩ := q
  cases st <;> simp [bytePosition, rowsLeft] at hnext hzero <;> omega

@[simp] theorem transmitByte_seq (b : Byte) (m : Mode) (s : State) : (transmitByte b m s).seq = s.seq := by
  rw [transmitByte_frame, loadByte_seq]

@[simp] theorem transmitByte_busy (b : Byte) (m : Mode) (s : State) : (transmitByte b m s).busy = s.busy := by
  rw [transmitByte_frame, loadByte_busy]

@[simp] theorem transmitByte_idx (b : Byte) (m : Mode) (s : State) : (transmitByte b m s).idx = s.idx := by
  rw [transmitByte_frame, loadByte_idx]

@[simp] theorem transmitByte_cnt (b : Byte) (m : Mode) (s : State) : (transmitByte b m s).cnt = s.cnt := by
  rw [transmitByte_frame, loadByte_cnt]

@[simp] theorem transmitByte_txt (b : Byte) (m : Mode) (s : State) : (transmitByte b m s).txt = s.txt := by
  rw [transmitByte_frame, loadByte_txt]

@[simp] theorem transmitByte_arg (b : Byte) (m : Mode) (s : State) : (transmitByte b m s).arg = s.arg := by
  rw [transmitByte_frame, loadByte_arg]

/-- A transfer as it starts. -/
theorem inTransfer_startByte (b : Byte) (m : Mode) (hbusy : s.busy = true) (hc : carriesByte s = true) :
    InTransfer (startByte b m s) 27 := ⟨hbusy, hc, rfl, rfl⟩

/-- The first 26 positions of a transfer, and what the 27th makes of its row. -/
theorem runPositions_transfer (b : Byte) (m : Mode) (hbusy : s.busy = true) (hc : carriesByte s = true) :
    ∃ u, runPositions 26 (startByte b m s) = .next u ∧ InTransfer u 1 ∧ byteNext u = moveTo .idle 0 (transmitByte b m s) := by
  obtain ⟨hrun, hin⟩ := runPositions_rows 26 (n := 0) (inTransfer_startByte b m hbusy hc)
  refine ⟨_, hrun, hin, ?_⟩
  exact (Function.iterate_succ_apply' byteNext 26 _).symm.trans (byteNext_transfer b m s)

/-! ## The statement -/

theorem Bookkeeping.refl (s : State) : Bookkeeping s s := ⟨rfl, rfl, rfl, rfl, rfl, rfl⟩

theorem Bookkeeping.trans {u : State} (h : Bookkeeping s t) (k : Bookkeeping t u) : Bookkeeping s u :=
  ⟨k.cfg.trans h.cfg, k.dev.trans h.dev, k.now.trans h.now, k.trace.trans h.trace, k.logCnt.trans h.logCnt,
    k.latched.trans h.latched⟩

theorem finish_own (s : State) : Bookkeeping s (finish s) := ⟨rfl, rfl, rfl, rfl, rfl, rfl⟩

theorem nextByte_own (more : Bool) (b : Byte) (m : Mode) (s : State) : Bookkeeping s (nextByte more b m s) := by
  cases more <;> exact ⟨rfl, rfl, rfl, rfl, rfl, rfl⟩

theorem markPhase_own (op : OpName) (s : State) : Bookkeeping s (markPhase op s) := ⟨rfl, rfl, rfl, rfl, rfl, rfl⟩

theorem wrapUp_own (s u : State) : Bookkeeping u (wrapUp s u) := by
  unfold wrapUp
  split <;> exact ⟨rfl, rfl, rfl, rfl, rfl, rfl⟩

theorem advanceInit_own (s : State) : Bookkeeping s (advanceInit s) :=
  Bookkeeping.trans (t := nextInit s) ⟨rfl, rfl, rfl, rfl, rfl, rfl⟩ (nextByte_own _ _ _ _)

theorem advanceText_own (s : State) : Bookkeeping s (advanceText s).1 :=
  Bookkeeping.trans (t := nextText s) ⟨rfl, rfl, rfl, rfl, rfl, rfl⟩ (nextByte_own _ _ _ _)

theorem advanceInit_of_more (h : s.initIdx + 1 < 6) :
    advanceInit s = startByte (initByte (s.initIdx + 1)) .command (nextInit s) := by
  simp [advanceInit, nextByte, h]

theorem advanceInit_of_last (h : ¬s.initIdx + 1 < 6) : advanceInit s = nextInit s := by
  simp [advanceInit, nextByte, h]

theorem advanceText_of_more (h : s.idx + 1 < s.cnt) :
    advanceText s = (startByte (cellAt s.txt (s.idx + 1)) .character (nextText s), false) := by
  simp [advanceText, nextByte, h, Nat.not_le.2 h]

theorem advanceText_of_last (h : ¬s.idx + 1 < s.cnt) : advanceText s = (nextText s, true) := by
  simp [advanceText, nextByte, h, Nat.not_lt.1 h]

/-- The operation in progress is one transfer and nothing more. -/
def LoneTransfer (s : State) : Prop := s.seq.op ∈ [OpName.transmit, .writeCommand, .writeChar]

/-- A transfer is a lone one, or one of `INIT`, or one of `WRITE_TEXT`, and only one of these. -/
theorem carriesByte_cases (hc : carriesByte s = true) :
    (LoneTransfer s ∧ initInProgress s = false ∧ writeTextInProgress s = false) ∨
    (¬LoneTransfer s ∧ (initInProgress s = true ∧ s.initIdx < 6) ∧ writeTextInProgress s = false) ∨
    (¬LoneTransfer s ∧ initInProgress s = false ∧ writeTextInProgress s = true) := by
  unfold carriesByte at hc
  unfold LoneTransfer initInProgress writeTextInProgress
  split at hc
  case h_4 hop | h_6 hop | h_7 hop =>
    simp only [Bool.or_eq_true, Bool.and_eq_true, decide_eq_true_eq] at hc
    simp only [hop]
    grind
  case h_1 hop | h_2 hop | h_3 hop | h_5 hop => simp [hop]
  all_goals cases hc

/-- A lone transfer is over in 27 positions, which do what the whole transfer does (41 R161, R162). -/
theorem runPositions_loneTransfer (b : Byte) (m : Mode) (hbusy : s.busy = true) (hlone : LoneTransfer s) :
    ∃ u, runPositions 26 (startByte b m s) = .next u ∧ u.busy = true ∧ microStep u = .next (finish (transmitByte b m s)) := by
  have hc : carriesByte s = true := by
    simp only [LoneTransfer, List.mem_cons, List.not_mem_nil, or_false] at hlone
    obtain hop | hop | hop := hlone <;> simp [carriesByte, hop]
  obtain ⟨u, hrun, hin, hnext⟩ := runPositions_transfer b m hbusy hc
  have hop : u.seq.op = s.seq.op := by
    rw [← byteNext_op, hnext, moveTo_seq, transmitByte_seq]
  refine ⟨u, hrun, hin.busy, ?_⟩
  rw [microStep_lastRow (hop ▸ hlone) hin.position hin.lastRow, hnext]
  rfl

/-- What the last row of a byte of `INIT` leaves: the next byte begun, or no byte left (42 R190). -/
theorem advanceInit_position (s : State) {t : State} (ht : t = markPhase s.seq.op (advanceInit (byteNext s)))
    (hlast : lastRow s = true) :
    t.busy = s.busy ∧ t.seq.op = s.seq.op ∧ t.initIdx = s.initIdx + 1 ∧
      (if t.initIdx < 6 then t.seq.st = .setMode ∧ t.seq.u = 0 ∧ t.byte = initByte t.initIdx ∧ t.mode = .command
        else t.seq.st = .idle) := by
  have hst : (byteNext s).seq.st = .idle := of_decide_eq_true hlast
  subst ht
  by_cases hmore : (byteNext s).initIdx + 1 < 6
  · simp [markPhase, advanceInit_of_more hmore, startByte, (byteNext_initIdx s ▸ hmore : s.initIdx + 1 < 6)]
  · simp [markPhase, advanceInit_of_last hmore, (byteNext_initIdx s ▸ hmore : ¬s.initIdx + 1 < 6), hst]

/-- What the last row of a byte of `WRITE_TEXT` leaves: the next byte begun, or nothing in progress (42 R195). -/
theorem advanceText_position (s : State) {t : State}
    (ht : t = if (advanceText (byteNext s)).2 then wrapUp s (finish (advanceText (byteNext s)).1)
      else markPhase s.seq.op (advanceText (byteNext s)).1) :
    t.idx = s.idx + 1 ∧
      (if t.idx < s.cnt then t.busy = s.busy ∧ t.seq.op = s.seq.op ∧ t.seq.st = .setMode ∧ t.seq.u = 0 ∧
          t.byte = cellAt s.txt t.idx ∧ t.mode = .character
        else t.busy = false ∧ t.seq = Seq.idle) := by
  subst ht
  by_cases hmore : s.idx + 1 < s.cnt
  · rw [advanceText_of_more (by rwa [byteNext_idx, byteNext_cnt])]
    simp [markPhase, startByte, hmore]
  · rw [advanceText_of_last (by rwa [byteNext_idx, byteNext_cnt])]
    simp [hmore]

/-- A micro-step at a row of the table: it accounts for the events of the row, and what it leaves is told by whether the row is the last
of its byte and by what the byte is of. -/
theorem microStep_of_row {c : Config} (hcfg : s.cfg = c) (hvalid : c.valid = true) (hbusy : s.busy = true) (hc : carriesByte s = true)
    (hb : bytePosition s.seq = true) :
    ∃ t : State, microStep s = .next t ∧ Accounted c s t (rowEvents c s.byte s.mode s.seq.st s.seq.u) ∧
      (lastRow s = false → t = byteNext s) ∧
      (lastRow s = true → LoneTransfer s → t = finish (byteNext s)) ∧
      (lastRow s = true → initInProgress s = true → t = markPhase s.seq.op (advanceInit (byteNext s))) ∧
      (lastRow s = true → writeTextInProgress s = true →
        t = if (advanceText (byteNext s)).2 then wrapUp s (finish (advanceText (byteNext s)).1)
          else markPhase s.seq.op (advanceText (byteNext s)).1) := by
  have hacc := byteNext_accounted hcfg hvalid
  cases hlast : lastRow s with
  | false => exact ⟨_, microStep_row hc hb hbusy hlast, hacc, fun _ => rfl, nofun, nofun, nofun⟩
  | true =>
    obtain ⟨hlone, hinit, htext⟩ | ⟨hlone, ⟨hinit, hidx⟩, htext⟩ | ⟨hlone, hinit, htext⟩ := carriesByte_cases hc
    · refine ⟨_, microStep_lastRow hlone hb hlast, hacc.own (finish_own _), nofun, fun _ _ => rfl, ?_, ?_⟩ <;> simp [hinit, htext]
    · refine ⟨_, microStep_lastRow_init hinit hidx hb hbusy hlast, hacc.own ((advanceInit_own _).trans (markPhase_own _ _)), nofun,
        fun _ h => absurd h hlone, fun _ _ => rfl, ?_⟩
      simp [htext]
    · refine ⟨_, microStep_lastRow_text htext hb hbusy hlast, hacc.own ?_, nofun, fun _ h => absurd h hlone, ?_, fun _ _ => rfl⟩
      · split
        · exact ((advanceText_own _).trans (finish_own _)).trans (wrapUp_own _ _)
        · exact (advanceText_own _).trans (markPhase_own _ _)
      · simp [hinit]

/-- Settles O60: the 27 rows are those of the transfer, and each micro-step performs one and goes on as its operation does. -/
theorem transmitTakes27Positions : Obligations.TransmitTakes27Positions := by
  unfold Obligations.TransmitTakes27Positions
  refine ⟨fun b m s hrun => ?_, fun s es st u hvalid hbusy hl hrow => ?_⟩
  · obtain ⟨s₂, hpos, hbusy, hstep⟩ := runPositions_loneTransfer (s := beginOp .transmit s) b m rfl (by simp [LoneTransfer])
    exact ⟨_, s₂, _, whenActive_of_canRun hrun _, hpos, hbusy, hstep, rfl, runOp_of_canRun hrun .transmit (transmitByte b m)⟩
  · have hb := bytePosition_of_transferRow hrow
    rw [transferRow_eq _ _ hb, Option.some.injEq, Prod.mk.injEq] at hrow
    obtain ⟨rfl, hnext⟩ := hrow
    obtain ⟨t, hstep, hacc, hinside, hlone, hinit, htext⟩ :=
      microStep_of_row rfl hvalid hbusy (carriesByte_of_positionLegal hl hb) hb
    have hlast : st = .idle → lastRow s = true := fun hst => decide_eq_true (by rw [hnext, hst])
    have hmid : st ≠ .idle → lastRow s = false := fun hst => decide_eq_false (by rwa [hnext])
    refine ⟨t, hstep, hacc.trace, hacc.dev, hacc.now, fun hst => ?_, fun hst hop => ?_, fun hst hi => ?_, fun hst ht => ?_⟩
    · have hframe := byteNext_frame s
      rwa [← hinside (hmid hst), hnext] at hframe
    · rw [hlone (hlast hst) hop]
      exact ⟨rfl, rfl⟩
    · rw [← hbusy]
      exact advanceInit_position s (hinit (hlast hst) hi) (hlast hst)
    · rw [← hbusy]
      exact advanceText_position s (htext (hlast hst) ht)

end Sys2Proof.Machine
end

section
/-!
PROOFS. The position-level form and the operation-level form agree (spec/00_scope.md R19): started from `launch`, the positions of a
transfer, of `INIT`, of `WRITE_TEXT`, of `RENDER` and of an accepted `WRITE_REQ` end in the state of the whole operation.
-/

namespace Sys2Proof.Machine

variable {s t : State}

/-! ## Runs of positions -/

/-- Some number of positions leads from one state to the other. -/
def Reaches (s t : State) : Prop := ∃ k, runPositions k s = .next t

theorem Reaches.refl (s : State) : Reaches s s := ⟨0, rfl⟩

theorem reaches_of_microStep (hbusy : s.busy = true) (h : microStep s = .next t) : Reaches s t :=
  ⟨1, by rw [runPositions, if_pos hbusy, h]; rfl⟩

theorem runPositions_of_idle (hbusy : s.busy = false) (k : Nat) : runPositions k s = .next s := by
  cases k with
  | zero => rfl
  | succ k => rw [runPositions, if_neg (by simp [hbusy])]

theorem runPositions_add (j k : Nat) (h : runPositions j s = .next t) : runPositions (j + k) s = runPositions k t := by
  induction j generalizing s with
  | zero =>
    cases h
    rw [Nat.zero_add]
  | succ j ih =>
    cases hbusy : s.busy with
    | false =>
      rw [runPositions_of_idle hbusy] at h
      cases h
      rw [runPositions_of_idle hbusy, runPositions_of_idle hbusy]
    | true =>
      rw [Nat.add_right_comm, runPositions, if_pos hbusy]
      rw [runPositions, if_pos hbusy] at h
      cases hstep : microStep s with
      | next u =>
        rw [hstep] at h
        exact ih h
      | fault | refused =>
        rw [hstep] at h
        cases h

theorem Reaches.trans {u : State} (h : Reaches s t) (k : Reaches t u) : Reaches s u := by
  obtain ⟨j, hj⟩ := h
  obtain ⟨k, hk⟩ := k
  exact ⟨j + k, (runPositions_add j k hj).trans hk⟩

/-! ## The loop of `INIT` -/

/-- The operations in which `INIT` runs. -/
def RunsInit (op : OpName) : Prop := op = .init ∨ op = .render ∨ op = .writeReq

/-- Where `PHASE` stands while `INIT` is at an index (42 R190, log 25). -/
def initPhaseOf (op : OpName) (k : Nat) : Phase :=
  if op = .init then (if k < 6 then .byte k else .postClear) else .init

/-- The state at the last row of a byte has the host's fields of the state that began it. -/
theorem lastRow_host {u : State} {b : Byte} {m : Mode} (h : byteNext u = moveTo .idle 0 (transmitByte b m s)) :
    u.seq.op = s.seq.op ∧ u.seq.phase = s.seq.phase ∧ u.initIdx = s.initIdx ∧ u.arg = s.arg := by
  have harg : (byteNext u).arg = u.arg := by rw [byteNext_frame]
  rw [← byteNext_op, ← byteNext_phase, ← byteNext_initIdx, ← harg, h]
  simp [transmitByte_initIdx]

theorem place_transmitByte (q : Seq) (a : List Byte) (b : Byte) (m : Mode) (s : State) :
    transmitByte b m (place q a s) = place q a (transmitByte b m s) := (unseen_place q a).transmitByte b m s

@[simp] theorem place_busy (q : Seq) (a : List Byte) (s : State) : (place q a s).busy = s.busy := rfl

/-- One byte of `INIT`, from its first position to the first of the next, or past the last (42 R190). -/
theorem reaches_initByte {op : OpName} (hop : RunsInit op) (a : List Byte) (hbusy : s.busy = true) {k : Nat} (hk : s.initIdx = k)
    (hidx : k < 6) :
    Reaches (place ⟨op, initPhaseOf op k, .setMode, 0⟩ a (loadByte (initByte k) .command s))
      (markPhase op (advanceInit (place ⟨op, initPhaseOf op k, .idle, 0⟩ a (transmitByte (initByte k) .command s)))) := by
  let h := place ⟨op, initPhaseOf op k, .idle, 0⟩ a s
  have hc : carriesByte h = true := by
    obtain rfl | rfl | rfl := hop <;> simp [carriesByte, hk, hidx, h, place, initPhaseOf]
  obtain ⟨u, hrun, hin, hnext⟩ := runPositions_transfer (s := h) (initByte k) .command hbusy hc
  obtain ⟨huop, huphase, huidx, -⟩ := lastRow_host hnext
  have hinit : initInProgress u = true := by
    rw [initInProgress, huop, huphase]
    obtain rfl | rfl | rfl := hop <;> simp [h, place, initPhaseOf]
  have hlast := microStep_lastRow_init hinit ((huidx.trans hk).trans_lt hidx) hin.position hin.busy hin.lastRow
  rw [hnext, huop, place_transmitByte] at hlast
  exact Reaches.trans ⟨26, hrun⟩ (reaches_of_microStep hin.busy hlast)

/-- After a byte of `INIT` that is not the last, the first position of the next. -/
theorem markPhase_advanceInit_more {op : OpName} (hop : RunsInit op) (a : List Byte) {k : Nat} (hk : s.initIdx = k)
    (hmore : k + 1 < 6) :
    markPhase op (advanceInit (place ⟨op, initPhaseOf op k, .idle, 0⟩ a s)) =
      place ⟨op, initPhaseOf op (k + 1), .setMode, 0⟩ a (loadByte (initByte (k + 1)) .command (nextInit s)) := by
  subst hk
  rw [advanceInit_of_more (s := place _ a s) hmore]
  obtain rfl | rfl | rfl := hop <;> rfl

/-- After the last byte of `INIT`, the position of its closing delay. -/
theorem markPhase_advanceInit_last {op : OpName} (hop : RunsInit op) (a : List Byte) {k : Nat} (hk : s.initIdx = k)
    (hlast : k + 1 = 6) :
    markPhase op (advanceInit (place ⟨op, initPhaseOf op k, .idle, 0⟩ a s)) =
      place ⟨op, initPhaseOf op (k + 1), .idle, 0⟩ a (nextInit s) := by
  subst hk
  rw [advanceInit_of_last (s := place _ a s) (Nat.not_lt_of_ge hlast.ge)]
  obtain rfl | rfl | rfl := hop <;> rfl

/-- The loop of `INIT` from an index below 6 (42 R190). -/
theorem reaches_initLoop {op : OpName} (hop : RunsInit op) (a : List Byte) (n : Nat) :
    ∀ (s : State) (k : Nat), s.busy = true → s.initIdx = k → k + (n + 1) = 6 →
      Reaches (place ⟨op, initPhaseOf op k, .setMode, 0⟩ a (loadByte (initByte k) .command s))
        (place ⟨op, initPhaseOf op 6, .idle, 0⟩ a (initLoop (n + 1) s)) := by
  induction n with
  | zero =>
    intro s k hbusy hk hn
    have hbyte := reaches_initByte hop a hbusy hk (by omega)
    rw [markPhase_advanceInit_last hop a (by rw [transmitByte_initIdx, hk]) hn, hn] at hbyte
    rwa [initLoop, if_pos (by omega), hk]
  | succ n ih =>
    intro s k hbusy hk hn
    have hbyte := reaches_initByte hop a hbusy hk (by omega)
    rw [markPhase_advanceInit_more hop a (by rw [transmitByte_initIdx, hk]) (by omega)] at hbyte
    have hrest := ih (nextInit (transmitByte (initByte k) .command s)) (k + 1) (by simpa using hbusy)
      (by rw [nextInit_initIdx, transmitByte_initIdx, hk]) (by omega)
    rw [initLoop, if_pos (by omega), hk]
    exact hbyte.trans hrest

/-- `INIT` up to its closing delay, from its first position (42 R190). -/
theorem reaches_initDelay {op : OpName} (hop : RunsInit op) (a : List Byte) (hbusy : s.busy = true) :
    Reaches (place ⟨op, initPhaseOf op 0, .setMode, 0⟩ a (loadByte (initByte 0) .command (startInit s)))
      (place ⟨op, initPhaseOf op 6, .idle, 0⟩ a (initLoop 6 (startInit s))) :=
  reaches_initLoop hop a 5 (startInit s) 0 hbusy rfl rfl

/-! ## The loop of `WRITE_TEXT` -/

/-- The operations in which `WRITE_TEXT` runs. -/
def RunsText (op : OpName) : Prop := op = .writeText ∨ op = .render ∨ op = .writeReq

/-- Where `PHASE` stands while `WRITE_TEXT` is at an index (42 R195, log 25). -/
def textPhaseOf (op : OpName) (k : Nat) : Phase := if op = .writeText then .byte k else .text

/-- The end of an operation that holds the operand `a`. -/
def closeOp (op : OpName) (a : List Byte) (s : State) : State :=
  if op = .writeReq then closeRequest a.length (finish s) else finish s

theorem wrapUp_eq_closeOp {op : OpName} {a : List Byte} {u : State} (hop : u.seq.op = op) (harg : u.arg = a) (s : State) :
    wrapUp u (finish s) = closeOp op a s := by
  subst hop harg
  rfl

/-- After a byte of `WRITE_TEXT` that is not the last, the first position of the next. -/
theorem markPhase_nextText {op : OpName} (hop : RunsText op) (a : List Byte) (b : Byte) (s : State) :
    markPhase op (startByte b .character (nextText (moveTo .idle 0 (place ⟨op, textPhaseOf op s.idx, .idle, 0⟩ a s)))) =
      place ⟨op, textPhaseOf op (s.idx + 1), .setMode, 0⟩ a (loadByte b .character (nextText s)) := by
  obtain rfl | rfl | rfl := hop <;> rfl

theorem closeOp_nextText_place (op : OpName) (q : Seq) (a : List Byte) (s : State) :
    closeOp op a (nextText (moveTo .idle 0 (place q a s))) = closeOp op a (nextText s) := rfl

/-- One byte of `WRITE_TEXT`, from its first position to the first of the next, or to the end (42 R195). -/
theorem reaches_textByte {op : OpName} (hop : RunsText op) (a : List Byte) (b : Byte) (hbusy : s.busy = true) :
    Reaches (place ⟨op, textPhaseOf op s.idx, .setMode, 0⟩ a (loadByte b .character s))
      (if s.idx + 1 < s.cnt then
        place ⟨op, textPhaseOf op (s.idx + 1), .setMode, 0⟩ a
          (loadByte (cellAt s.txt (s.idx + 1)) .character (nextText (transmitByte b .character s)))
      else closeOp op a (nextText (transmitByte b .character s))) := by
  let h := place ⟨op, textPhaseOf op s.idx, .idle, 0⟩ a s
  have hc : carriesByte h = true := by
    obtain rfl | rfl | rfl := hop <;> simp [carriesByte, h, place, textPhaseOf]
  obtain ⟨u, hrun, hin, hnext⟩ := runPositions_transfer (s := h) b .character hbusy hc
  obtain ⟨huop, huphase, -, huarg⟩ := lastRow_host hnext
  have htext : writeTextInProgress u = true := by
    rw [writeTextInProgress, huop, huphase]
    obtain rfl | rfl | rfl := hop <;> simp [h, place, textPhaseOf]
  have hlast := microStep_lastRow_text htext hin.position hin.busy hin.lastRow
  refine Reaches.trans ⟨26, hrun⟩ (reaches_of_microStep hin.busy (hlast.trans (congrArg _ ?_)))
  rw [hnext, huop, place_transmitByte]
  have hidx := transmitByte_idx b .character s
  have hcnt := transmitByte_cnt b .character s
  have htxt := transmitByte_txt b .character s
  generalize transmitByte b .character s = v at hidx hcnt htxt ⊢
  rw [← hidx, ← hcnt, ← htxt]
  by_cases hmore : v.idx + 1 < v.cnt
  · rw [advanceText_of_more (s := moveTo .idle 0 (place _ a v)) hmore, if_pos hmore]
    exact markPhase_nextText hop a _ v
  · rw [advanceText_of_last (s := moveTo .idle 0 (place _ a v)) hmore, if_neg hmore, if_pos rfl, wrapUp_eq_closeOp huop huarg]
    exact closeOp_nextText_place op _ a v

theorem textLoop_of_done (n : Nat) (h : ¬s.idx < s.cnt) : textLoop n s = s := by
  cases n with
  | zero => rfl
  | succ n => rw [textLoop, if_neg h]

/-- The loop of `WRITE_TEXT` from an index below the count, to the end of the operation (42 R195). -/
theorem reaches_textLoop {op : OpName} (hop : RunsText op) (a : List Byte) (n : Nat) :
    ∀ s : State, s.busy = true → s.idx < s.cnt → s.cnt ≤ s.idx + n →
      Reaches (place ⟨op, textPhaseOf op s.idx, .setMode, 0⟩ a (loadByte (cellAt s.txt s.idx) .character s))
        (closeOp op a (textLoop n s)) := by
  induction n with
  | zero => exact fun s _ hidx hn => absurd hidx (Nat.not_lt.2 hn)
  | succ n ih =>
    intro s hbusy hidx hn
    have hbyte := reaches_textByte hop a (cellAt s.txt s.idx) hbusy
    have hrest := ih (nextText (transmitByte (cellAt s.txt s.idx) .character s)) (by simpa using hbusy)
    simp only [nextText_idx, nextText_cnt, nextText_txt, transmitByte_idx, transmitByte_cnt, transmitByte_txt] at hrest
    rw [textLoop, if_pos hidx]
    by_cases hmore : s.idx + 1 < s.cnt
    · rw [if_pos hmore] at hbyte
      exact hbyte.trans (hrest hmore (by omega))
    · rw [if_neg hmore] at hbyte
      rwa [textLoop_of_done n (by simpa using hmore)]

theorem textBody_nil (s : State) : textBody [] s = loadText [] s := textLoop_of_done maxText (Nat.lt_irrefl 0)

/-- The first position of `WRITE_TEXT`, where it has one (42 R195). -/
def textStart (op : OpName) (a text : List Byte) (s : State) : State :=
  place ⟨op, textPhaseOf op 0, .setMode, 0⟩ a (loadByte (cellAt (loadText text s).txt 0) .character (loadText text s))

@[simp] theorem textStart_busy (op : OpName) (a text : List Byte) (s : State) : (textStart op a text s).busy = s.busy := rfl

/-- `WRITE_TEXT` from its first position, for a text that has a byte (42 R195). -/
theorem reaches_textBody {op : OpName} (hop : RunsText op) (a : List Byte) {text : List Byte} (hne : text ≠ [])
    (hlen : text.length ≤ maxText) (hbusy : s.busy = true) :
    Reaches (textStart op a text s) (closeOp op a (textBody text s)) :=
  reaches_textLoop hop a maxText (loadText text s) hbusy (List.length_pos_iff.2 hne) (by simpa using hlen)

/-! ## `RENDER`, alone or inside `WRITE_REQ` -/

/-- The operations in which `RENDER` runs. -/
def RunsRender (op : OpName) : Prop := op = .render ∨ op = .writeReq

/-- A position of `RENDER` (43 R224): where it ends a write request, the request ends with it. -/
theorem microStep_render (hop : RunsRender s.seq.op) (h : renderStep s = some t) :
    microStep s = .next (if t.busy then t else wrapUp s t) := by
  obtain hop | hop := hop <;> simp [microStep, wrapUp, hop, h, orIllegal]

theorem initLoop_initIdx (k : Nat) (s : State) (h : s.initIdx + k ≤ 6) : (initLoop k s).initIdx = s.initIdx + k := by
  induction k generalizing s with
  | zero => rfl
  | succ k ih =>
    have hnext : (nextInit (transmitByte (initByte s.initIdx) .command s)).initIdx = s.initIdx + 1 := by
      rw [nextInit_initIdx, transmitByte_initIdx]
    rw [initLoop, if_pos (by omega), ih _ (by omega), hnext]
    omega

@[simp] theorem initLoop_busy (k : Nat) (s : State) : (initLoop k s).busy = s.busy := by
  induction k generalizing s with
  | zero => rfl
  | succ k ih =>
    rw [initLoop]
    split
    · rw [ih, nextInit_busy, transmitByte_busy]
    · rfl

@[simp] theorem initBody_busy (s : State) : (initBody s).busy = s.busy := by
  rw [initBody, setReady_busy, delay_busy, initLoop_busy, startInit_busy]

@[simp] theorem configureAllBody_busy (s : State) : (configureAllBody s).busy = s.busy := by
  rw [configureAllBody_frame s]

/-- The closing delay of `INIT` (42 R190). -/
theorem initStep_last (h : ¬s.initIdx < 6) : initStep s = some (setReady true (delay tPostClearSettle s), true) := if_neg h

theorem not_initIdx_lt (s : State) : ¬(initLoop 6 (startInit s)).initIdx < 6 := by
  rw [initLoop_initIdx 6 _ (by simp)]
  simp

/-- The closing delay of `INIT` inside `RENDER` (42 R190, 43 R224). -/
theorem reaches_initDelayOfRender {op : OpName} (hop : RunsRender op) (a : List Byte) (hbusy : s.busy = true) (h : ¬s.initIdx < 6) :
    Reaches (place ⟨op, .init, .idle, 0⟩ a s) (place ⟨op, .settle, .idle, 0⟩ a (setReady true (delay tPostClearSettle s))) := by
  have hinit := initStep_last (s := place ⟨op, .init, .idle, 0⟩ a s) h
  have hstep : renderStep (place ⟨op, .init, .idle, 0⟩ a s) =
      some (place ⟨op, .settle, .idle, 0⟩ a (setReady true (delay tPostClearSettle s))) := by
    simp only [renderStep, place] at hinit ⊢
    rw [hinit]
    rfl
  have hpos := microStep_render hop hstep
  rw [place_busy, setReady_busy, delay_busy, if_pos hbusy] at hpos
  exact reaches_of_microStep (s := place _ a s) hbusy hpos

/-- `INIT` inside `RENDER`, with the position that leaves it (42 R190, 43 R224). -/
theorem reaches_initOfRender {op : OpName} (hop : RunsRender op) (a : List Byte) (hbusy : s.busy = true) :
    Reaches (place ⟨op, .init, .setMode, 0⟩ a (loadByte (initByte 0) .command (startInit s)))
      (place ⟨op, .settle, .idle, 0⟩ a (initBody s)) := by
  have hphase (k : Nat) : initPhaseOf op k = .init := by obtain rfl | rfl := hop <;> rfl
  have hloop := reaches_initDelay (.inr hop) a hbusy
  rw [hphase, hphase] at hloop
  rw [initBody]
  exact hloop.trans (reaches_initDelayOfRender hop a (by rwa [initLoop_busy]) (not_initIdx_lt s))

/-- The text that an operation renders, from the operand it holds (44 R250). -/
def heldText (op : OpName) (a : List Byte) : List Byte := if op = .writeReq then (acceptedText a).getD [] else a

/-- The settle delay of `RENDER` and its text, to the end of the operation (43 R224). -/
theorem reaches_settle {op : OpName} (hop : RunsRender op) {a text : List Byte} (hheld : heldText op a = text)
    (hlen : text.length ≤ maxText) (hbusy : s.busy = true) :
    Reaches (place ⟨op, .settle, .idle, 0⟩ a s) (closeOp op a (textBody text (delay tPreRenderSettle s))) := by
  have hstep : renderStep (place ⟨op, .settle, .idle, 0⟩ a s) =
      some (finishIf (enterText text (place ⟨op, .text, .idle, 0⟩ a (delay tPreRenderSettle s)))) := by
    rw [← hheld]
    rfl
  have hpos := microStep_render hop hstep
  by_cases hne : text = []
  · subst hne
    rw [textBody_nil]
    exact reaches_of_microStep (s := place _ a s) hbusy hpos
  · have hphase : textPhaseOf op 0 = .text := by obtain rfl | rfl := hop <;> rfl
    have hstart : finishIf (enterText text (place ⟨op, .text, .idle, 0⟩ a (delay tPreRenderSettle s))) =
        textStart op a text (delay tPreRenderSettle s) := by
      have hcnt : text.length ≠ 0 := fun h => hne (List.length_eq_zero_iff.1 h)
      simp [finishIf, enterText, nextByte, textStart, hcnt, hne, hphase, List.length_pos_iff]
      rfl
    rw [hstart, textStart_busy, delay_busy, if_pos hbusy] at hpos
    exact Reaches.trans (reaches_of_microStep (s := place _ a s) hbusy hpos) (reaches_textBody (.inr hop) a hne hlen hbusy)

/-- `RENDER` from its first position to its end (43 R224). -/
theorem reaches_renderBody {op : OpName} (hop : RunsRender op) {a text : List Byte} (hheld : heldText op a = text)
    (hlen : text.length ≤ maxText) (hbusy : s.busy = true) :
    Reaches (place ⟨op, .cfg, .idle, 0⟩ a s) (closeOp op a (renderBody text s)) := by
  have hstep : renderStep (place ⟨op, .cfg, .idle, 0⟩ a s) =
      some (place ⟨op, .init, .setMode, 0⟩ a (loadByte (initByte 0) .command (startInit (configureAllBody s)))) := by
    change some (enterPhase .init (enterInit (configureAllBody (place _ a s)))) = _
    rw [(unseen_place _ a).configureAllBody]
    rfl
  have hpos := microStep_render hop hstep
  rw [if_pos (by simpa [place] using hbusy)] at hpos
  have hconf : (configureAllBody s).busy = true := by rwa [configureAllBody_busy]
  have hinit : (initBody (configureAllBody s)).busy = true := by rwa [initBody_busy]
  exact ((reaches_of_microStep (s := place _ a s) hbusy hpos).trans (reaches_initOfRender hop a hconf)).trans (reaches_settle hop hheld hlen hinit)

/-! ## The operations that stand alone -/

/-- The closing delay of a lone `INIT` ends it (42 R190). -/
theorem reaches_initEnd (a : List Byte) (hbusy : s.busy = true) (h : ¬s.initIdx < 6) :
    Reaches (place ⟨.init, .postClear, .idle, 0⟩ a s) (finish (setReady true (delay tPostClearSettle s))) := by
  have hinit := initStep_last (s := place ⟨.init, .postClear, .idle, 0⟩ a s) h
  refine reaches_of_microStep (s := place _ a s) hbusy ?_
  simp only [microStep, place] at hinit ⊢
  rw [hinit]
  rfl

/-- A lone `INIT` from its first position to its end (42 R190). -/
theorem reaches_loneInit (s : State) :
    Reaches (initPhase (enterInit (beginOp .init s))) (finish (initBody (beginOp .init s))) := by
  rw [initBody]
  exact (reaches_initDelay (s := beginOp .init s) (.inl rfl) s.arg rfl).trans
    (reaches_initEnd s.arg (initLoop_busy _ _) (not_initIdx_lt _))

/-- A lone `WRITE_TEXT` from its first position, or at once where it has none, to its end (42 R195, R196). -/
theorem reaches_loneText {text : List Byte} (hlen : text.length ≤ maxText) (s : State) :
    Reaches
      (if (enterText text (beginOp .writeText s)).2 then finish (enterText text (beginOp .writeText s)).1
        else textPhase (enterText text (beginOp .writeText s)).1)
      (finish (textBody text (beginOp .writeText s))) := by
  by_cases hne : text = []
  · subst hne
    rw [textBody_nil]
    exact .refl _
  · have hcnt : text.length ≠ 0 := fun h => hne (List.length_eq_zero_iff.1 h)
    have hstart : textPhase (enterText text (beginOp .writeText s)).1 = textStart .writeText s.arg text (beginOp .writeText s) := by
      simp [enterText, nextByte, textStart, hne, List.length_pos_iff]
      rfl
    rw [if_neg (by simpa [enterText] using hcnt), hstart]
    exact reaches_textBody (.inl rfl) s.arg hne hlen rfl

/-- A lone transfer from its first position to its end (41 R162). -/
theorem reaches_loneTransfer {op : OpName} (hop : op ∈ [OpName.transmit, .writeCommand, .writeChar]) (b : Byte) (m : Mode) (s : State) :
    Reaches (startByte b m (beginOp op s)) (finish (transmitByte b m (beginOp op s))) := by
  obtain ⟨u, hrun, hbusy, hlast⟩ := runPositions_loneTransfer (s := beginOp op s) b m rfl hop
  exact Reaches.trans ⟨26, hrun⟩ (reaches_of_microStep hbusy hlast)

/-! ## The two forms of an instruction -/

/-- The two answers are refusals for one reason, or from the second positions lead to the first. -/
structure Agrees (whole first : Answer) : Prop where
  refused (r : Refusal) : whole = .refused r ↔ first = .refused r
  next (t : State) : whole = .next t → ∃ s₁, first = .next s₁ ∧ Reaches s₁ t

theorem Agrees.refl (a : Answer) : Agrees a a := ⟨fun _ => Iff.rfl, fun t h => ⟨t, h, .refl t⟩⟩

theorem Agrees.of_reaches (h : Reaches s t) : Agrees (.next t) (.next s) :=
  ⟨fun _ => ⟨nofun, nofun⟩, fun u hu => ⟨s, rfl, by cases hu; exact h⟩⟩

/-- The checks every operation makes first are the same in both forms (60 R293). -/
theorem Agrees.whenActive {whole first : Answer} (h : CanRun s → Agrees whole first) :
    Agrees (whenActive s whole) (whenActive s first) := by
  unfold Machine.whenActive
  split
  · exact .refl _
  · next hlife =>
    split
    · exact .refl _
    · next hbusy =>
      have hactive : s.life = .active := by
        cases hl : s.life with
        | inactive => exact absurd hl hlife
        | active => rfl
      exact h ⟨hactive, Bool.eq_false_of_not_eq_true hbusy⟩

theorem textOf?_length {x text : List Byte} {n : Nat} (h : textOf? x n = some text) : text.length ≤ maxText := by
  unfold textOf? at h
  obtain ⟨⟨-, hmax⟩, htext⟩ := Option.ite_none_right_eq_some.1 h
  cases htext
  exact (List.length_take_le _ _).trans hmax

/-- An accepted write request, from its first position to its end, is the whole operation (44 R250). -/
theorem reaches_writeReq {bytes text : List Byte} (h : acceptedText bytes = some text) (s : State) :
    Reaches (enterRender bytes (storeRequest bytes (beginOp .writeReq s)))
      (finish (dropRequest (writeReqBody bytes (beginOp .writeReq s)))) := by
  rw [writeReqBody_of_accepted h]
  refine reaches_renderBody (s := storeRequest bytes (beginOp .writeReq s)) (.inr rfl) ?_ (acceptedText_length h) rfl
  rw [heldText, if_pos rfl, h, Option.getD_some]

/-- Every instruction agrees in its two forms. -/
theorem launch_agrees (i : Instr) (s : State) : Agrees (exec i s) (launch i s) := by
  cases i with
  | transmit | writeCommand | writeChar | lcdCommand | lcdChar | init0 | init1 | init2 | init3 | init4 | init5 | notSent28 =>
    exact .whenActive fun _ => .of_reaches (reaches_loneTransfer (by simp) _ _ s)
  | init => exact .whenActive fun _ => .of_reaches (reaches_loneInit s)
  | writeText x n =>
    refine .whenActive fun _ => ?_
    cases htext : textOf? x n with
    | none => exact .refl _
    | some text => exact .of_reaches (reaches_loneText (textOf?_length htext) s)
  | render x n =>
    refine .whenActive fun _ => ?_
    cases htext : textOf? x n with
    | none => exact .refl _
    | some text =>
      exact .of_reaches (reaches_renderBody (s := beginOp .render s) (a := text) (.inl rfl) rfl (textOf?_length htext) rfl)
  | writeReq bytes =>
    refine .whenActive fun hrun => ?_
    cases htext : acceptedText bytes with
    | none =>
      dsimp only
      rw [exec_writeReq_of_canRun hrun]
      exact .refl _
    | some text => exact .of_reaches (reaches_writeReq htext s)
  | _ => exact .refl _

/-- After a whole instruction nothing is in progress; a row that is no operation leaves `SEQ` and the operand as they were. -/
theorem exec_over {i : Instr} (h : exec i s = .next t) :
    t.busy = false ∧ ((t.seq = Seq.idle ∧ t.arg = []) ∨ (t.seq = s.seq ∧ t.arg = s.arg)) := by
  cases i with
  | activate ok =>
    simp only [exec, execActivate] at h
    split_ifs at h with _ hbusy <;> cases h
    · exact ⟨rfl, .inl ⟨rfl, rfl⟩⟩
    · exact ⟨Bool.eq_false_of_not_eq_true hbusy, .inr ⟨rfl, rfl⟩⟩
  | deactivate =>
    obtain rfl := deactivate_next h
    exact ⟨rfl, .inl ⟨rfl, rfl⟩⟩
  | transmit | writeCommand | writeChar | lcdCommand | lcdChar | init0 | init1 | init2 | init3 | init4 | init5 | notSent28
  | init | configureAll | ledSet | buttonRead | readReq | writeReq =>
    obtain ⟨-, h⟩ := whenActive_next h
    cases h
    exact ⟨rfl, .inl ⟨rfl, rfl⟩⟩
  | configure | set | read | writeText | render =>
    obtain ⟨-, h⟩ := whenActive_next h
    split at h <;> cases h
    exact ⟨rfl, .inl ⟨rfl, rfl⟩⟩
  | gpfsel0 | gpfsel1 | gpfsel2 | gpfsel3 | gpfsel4 | gpfsel5 | gpset0 | gpset1 | gpclr0 | gpclr1 | gplev0 | gplev1 =>
    obtain ⟨⟨-, hbusy⟩, h⟩ := whenActive_next h
    unfold accessReg at h
    split at h <;> cases h <;> exact ⟨hbusy, .inr ⟨rfl, rfl⟩⟩
  | fselPlace | pinBit =>
    simp only [exec, execFselPlace, execPinBit] at h
    split at h
    · obtain ⟨⟨-, hbusy⟩, h⟩ := whenActive_next h
      cases h
      exact ⟨hbusy, .inr ⟨rfl, rfl⟩⟩
    · cases (whenActive_next h).2
  | fselInput | fselOutput | fselAlt2 | fselAlt3 | fselAlt4 | fselAlt5 | fselAlt6 | fselAlt7 | latchSample | wireReadResp
  | wireWriteReq =>
    obtain ⟨⟨-, hbusy⟩, h⟩ := whenActive_next h
    cases h
    exact ⟨hbusy, .inr ⟨rfl, rfl⟩⟩

/-- Settles O59: each operation that has positions runs through them to the state of the whole, and the others are over at once. -/
theorem positionsAgreeWithOperations : Obligations.PositionsAgreeWithOperations := by
  unfold Obligations.PositionsAgreeWithOperations
  intro i s
  have hagrees := launch_agrees i s
  refine ⟨hagrees.refused, fun t h => ?_⟩
  obtain ⟨s₁, hlaunch, k, hrun⟩ := hagrees.next t h
  exact ⟨(exec_over h).1, s₁, k, hlaunch, hrun⟩

end Sys2Proof.Machine
end

section
/-!
PROOFS. What the sequences of the display leave in each register of the block (spec/42_lcd_sequences.md R190, R195, spec/43_facade.md R224).
-/

namespace Sys2Proof.Machine

variable {s t : State}

@[simp] theorem transmitByte_byte (b : Byte) (m : Mode) (s : State) : (transmitByte b m s).byte = b := by
  rw [transmitByte_frame, loadByte_byte]

@[simp] theorem transmitByte_mode (b : Byte) (m : Mode) (s : State) : (transmitByte b m s).mode = m := by
  rw [transmitByte_frame, loadByte_mode]

/-! ## What `INIT` writes -/

/-- `t` differs from `s` in nothing but what a transfer writes, `INITIDX` and `READY`. -/
def InitFrame (s t : State) : Prop :=
  t = { s with dev := t.dev, now := t.now, trace := t.trace, latched := t.latched, draws := t.draws, byte := t.byte,
               mode := t.mode, initIdx := t.initIdx, ready := t.ready }

theorem InitFrame.trans {u : State} (h : InitFrame s t) (k : InitFrame t u) : InitFrame s u := by
  unfold InitFrame at *
  rw [k, h]

theorem PinFrame.initFrame (h : PinFrame s t) : InitFrame s t := by
  rw [h]
  rfl

theorem loadByte_initFrame (b : Byte) (m : Mode) (s : State) : InitFrame s (loadByte b m s) := rfl
theorem startInit_initFrame (s : State) : InitFrame s (startInit s) := rfl
theorem nextInit_initFrame (s : State) : InitFrame s (nextInit s) := rfl
theorem setReady_initFrame (b : Bool) (s : State) : InitFrame s (setReady b s) := rfl

theorem transmitByte_initFrame (b : Byte) (m : Mode) (s : State) : InitFrame s (transmitByte b m s) :=
  (loadByte_initFrame b m s).trans (transmitByte_frame b m s).initFrame

theorem initLoop_frame (k : Nat) (s : State) : InitFrame s (initLoop k s) := by
  induction k generalizing s with
  | zero => exact (PinFrame.refl s).initFrame
  | succ k ih =>
    rw [initLoop]
    split
    · exact ((transmitByte_initFrame _ _ s).trans (nextInit_initFrame _)).trans (ih _)
    · exact (PinFrame.refl s).initFrame

theorem initBody_frame (s : State) : InitFrame s (initBody s) :=
  (((startInit_initFrame s).trans (initLoop_frame 6 _)).trans (delay_frame _ _).initFrame).trans (setReady_initFrame true _)

/-- The loop of `INIT` leaves the last byte in flight (42 R190). -/
theorem initLoop_byte (k : Nat) (s : State) (h : s.initIdx + (k + 1) = 6) :
    (initLoop (k + 1) s).byte = initByte 5 ∧ (initLoop (k + 1) s).mode = .command := by
  induction k generalizing s with
  | zero =>
    obtain hidx : s.initIdx = 5 := by omega
    rw [initLoop, if_pos (by omega), initLoop, hidx, nextInit_byte, transmitByte_byte, nextInit_mode, transmitByte_mode]
    exact ⟨rfl, rfl⟩
  | succ k ih =>
    rw [initLoop, if_pos (by omega)]
    exact ih (nextInit (transmitByte (initByte s.initIdx) .command s)) (by rw [nextInit_initIdx, transmitByte_initIdx]; omega)

/-- The registers `INIT` leaves (42 R190). -/
theorem initBody_eq (s : State) :
    initBody s = { s with dev := (initBody s).dev, now := (initBody s).now, trace := (initBody s).trace,
                          latched := (initBody s).latched, draws := (initBody s).draws, byte := 0x01, mode := .command,
                          initIdx := 6, ready := true } := by
  have hbyte : (initBody s).byte = 0x01 := by
    rw [initBody, setReady_byte, delay_byte, (initLoop_byte 5 (startInit s) rfl).1]
    rfl
  have hmode : (initBody s).mode = .command := by
    rw [initBody, setReady_mode, delay_mode, (initLoop_byte 5 (startInit s) rfl).2]
  have hidx : (initBody s).initIdx = 6 := by
    rw [initBody, setReady_initIdx, delay_initIdx, initLoop_initIdx 6 (startInit s) (by simp), startInit_initIdx]
  have hready : (initBody s).ready = true := by rw [initBody, setReady_ready]
  rw [← hbyte, ← hmode, ← hidx, ← hready]
  exact initBody_frame s

/-! ## What `WRITE_TEXT` writes -/

/-- `t` differs from `s` in nothing but what a transfer writes, the snapshot and its indexes. -/
def TextFrame (s t : State) : Prop :=
  t = { s with dev := t.dev, now := t.now, trace := t.trace, latched := t.latched, draws := t.draws, byte := t.byte,
               mode := t.mode, txt := t.txt, cnt := t.cnt, idx := t.idx }

theorem TextFrame.trans {u : State} (h : TextFrame s t) (k : TextFrame t u) : TextFrame s u := by
  unfold TextFrame at *
  rw [k, h]

theorem PinFrame.textFrame (h : PinFrame s t) : TextFrame s t := by
  rw [h]
  rfl

theorem loadByte_textFrame (b : Byte) (m : Mode) (s : State) : TextFrame s (loadByte b m s) := rfl
theorem loadText_textFrame (text : List Byte) (s : State) : TextFrame s (loadText text s) := rfl
theorem nextText_textFrame (s : State) : TextFrame s (nextText s) := rfl

theorem transmitByte_textFrame (b : Byte) (m : Mode) (s : State) : TextFrame s (transmitByte b m s) :=
  (loadByte_textFrame b m s).trans (transmitByte_frame b m s).textFrame

theorem textLoop_frame (k : Nat) (s : State) : TextFrame s (textLoop k s) := by
  induction k generalizing s with
  | zero => exact (PinFrame.refl s).textFrame
  | succ k ih =>
    rw [textLoop]
    split
    · exact ((transmitByte_textFrame _ _ s).trans (nextText_textFrame _)).trans (ih _)
    · exact (PinFrame.refl s).textFrame

theorem textBody_frame (text : List Byte) (s : State) : TextFrame s (textBody text s) :=
  (loadText_textFrame text s).trans (textLoop_frame maxText _)

/-- What the loop of `WRITE_TEXT` leaves: the snapshot, every byte counted, the last of them in flight (42 R195). -/
structure TextLoopEnd (s t : State) : Prop where
  txt : t.txt = s.txt
  cnt : t.cnt = s.cnt
  idx : t.idx = s.cnt
  byte : t.byte = if s.idx < s.cnt then cellAt s.txt (s.cnt - 1) else s.byte
  mode : t.mode = if s.idx < s.cnt then .character else s.mode

theorem textLoop_end (k : Nat) (s : State) (hidx : s.idx ≤ s.cnt) (hk : s.cnt ≤ s.idx + k) : TextLoopEnd s (textLoop k s) := by
  induction k generalizing s with
  | zero =>
    have hdone : ¬s.idx < s.cnt := Nat.not_lt.2 hk
    exact ⟨rfl, rfl, Nat.le_antisymm hidx hk, by rw [if_neg hdone]; rfl, by rw [if_neg hdone]; rfl⟩
  | succ k ih =>
    by_cases hmore : s.idx < s.cnt
    · have hrest := ih (nextText (transmitByte (cellAt s.txt s.idx) .character s)) (by simpa using hmore) (by simp; omega)
      rw [textLoop, if_pos hmore]
      refine ⟨by simpa using hrest.txt, by simpa using hrest.cnt, by simpa using hrest.idx, ?_, ?_⟩
      · have hbyte := hrest.byte
        simp only [nextText_idx, nextText_cnt, nextText_txt, nextText_byte, transmitByte_idx, transmitByte_cnt, transmitByte_txt,
          transmitByte_byte] at hbyte
        rw [hbyte, if_pos hmore]
        split
        · rfl
        · rw [show s.idx = s.cnt - 1 by omega]
      · have hmode := hrest.mode
        simp only [nextText_mode, transmitByte_mode, ite_self] at hmode
        rw [hmode, if_pos hmore]
    · rw [textLoop_of_done _ hmore]
      exact ⟨rfl, rfl, by omega, by rw [if_neg hmore], by rw [if_neg hmore]⟩

/-- A cell after bytes are written from the first cell on. -/
theorem getElem_writeCells {n : Nat} (v : Vector Byte n) {bs : List Byte} (h : bs.length ≤ n) {i : Nat} (hi : i < n) :
    (writeCells v 0 bs)[i] = if i < bs.length then bs.getD i 0 else v[i] := by
  have hlist := writeCells_toList bs v 0 (by omega)
  simp only [List.take_zero, List.nil_append, Nat.zero_add] at hlist
  rw [← Vector.getElem_toList (by simpa using hi)]
  simp only [hlist]
  split
  · next hlt =>
    rw [List.getElem_append_left hlt, List.getD_eq_getElem _ _ hlt]
  · next hge =>
    rw [List.getElem_append_right (by omega), List.getElem_drop, Vector.getElem_toList]
    congr 1
    omega

/-- The last byte of a snapshot is the last of its text (42 R195). -/
theorem cellAt_loadText_last {text : List Byte} (hlen : text.length ≤ maxText) (hpos : 0 < text.length) (s : State) (b : Byte) :
    cellAt (loadText text s).txt (text.length - 1) = text.getLast?.getD b := by
  have hlast : text.length - 1 < 16 := Nat.lt_of_lt_of_le (by omega) hlen
  have hcell := getElem_writeCells s.txt (bs := text) hlen hlast
  rw [cellAt, loadText_txt, Vector.getElem?_eq_getElem hlast, hcell, if_pos (by omega), Option.getD_some, List.getLast?_eq_getElem?,
    List.getD_eq_getElem _ _ (by omega), List.getElem?_eq_getElem (by omega), Option.getD_some]

/-- The registers `WRITE_TEXT` leaves (42 R195). -/
theorem textBody_eq {text : List Byte} (hlen : text.length ≤ maxText) (s : State) :
    textBody text s = { s with dev := (textBody text s).dev, now := (textBody text s).now, trace := (textBody text s).trace,
                               latched := (textBody text s).latched, draws := (textBody text s).draws,
                               byte := text.getLast?.getD s.byte, mode := if text.length = 0 then s.mode else .character,
                               txt := writeCells s.txt 0 text, cnt := text.length, idx := text.length } := by
  have hend := textLoop_end maxText (loadText text s) (Nat.zero_le _) (by simpa using hlen)
  have hbyte : (textBody text s).byte = text.getLast?.getD s.byte := by
    refine hend.byte.trans ?_
    split
    · next hpos => exact cellAt_loadText_last hlen hpos s _
    · next hpos =>
      obtain rfl : text = [] := by simpa using hpos
      rfl
  have hmode : (textBody text s).mode = if text.length = 0 then s.mode else .character := by
    refine hend.mode.trans ?_
    by_cases hpos : text.length = 0
    · rw [if_pos hpos, if_neg (by simpa using hpos)]
      rfl
    · rw [if_neg hpos, loadText_idx, loadText_cnt, if_pos (Nat.pos_of_ne_zero hpos)]
  have hframe := textBody_frame text s
  unfold TextFrame at hframe
  rw [← hbyte, ← hmode]
  refine hframe.trans ?_
  rw [show (textBody text s).txt = writeCells s.txt 0 text from hend.txt, show (textBody text s).cnt = text.length from hend.cnt,
    show (textBody text s).idx = text.length from hend.idx]

/-! ## What `RENDER` writes -/

/-- The registers `RENDER` leaves (43 R224). -/
theorem renderBody_eq {text : List Byte} (hlen : text.length ≤ maxText) (s : State) :
    renderBody text s = { s with dev := (renderBody text s).dev, now := (renderBody text s).now, trace := (renderBody text s).trace,
                                 latched := (renderBody text s).latched, draws := (renderBody text s).draws,
                                 byte := text.getLast?.getD 0x01, mode := if text.length = 0 then .command else .character,
                                 txt := writeCells s.txt 0 text, cnt := text.length, idx := text.length, initIdx := 6,
                                 ready := true } := by
  have htext := textBody_eq hlen (delay tPreRenderSettle (initBody (configureAllBody s)))
  rw [← renderBody] at htext
  refine htext.trans ?_
  rw [initBody_eq, configureAllBody_frame]
  rfl

end Sys2Proof.Machine
end

section
/-!
PROOFS. The effects of `INIT`, `WRITE_TEXT` and `RENDER` (spec/42_lcd_sequences.md R190, R195, spec/43_facade.md R224), and the bytes that
`WRITE_TEXT` spells on the bus (spec/45_bus_receiver_view.md R272).
-/

namespace Sys2Proof.Machine

/-- Settles O26: the body of `INIT` accounts for its events and leaves its registers. -/
theorem initEffect : Obligations.InitEffect := by
  unfold Obligations.InitEffect
  intro s hvalid hrun
  have hacc := initBody_accounted hvalid (beginOp .init s) rfl
  refine ⟨whenActive_of_canRun hrun _, _, runOp_of_canRun hrun .init initBody, hacc.trace, hacc.dev, ?_,
    congrArg finish (initBody_eq (beginOp .init s))⟩
  rw [finish_dev, hacc.dev]
  exact (initEvents_writesOnly hvalid).fsel s.dev

/-- The cells of `TXT` after the first `n` bytes of a text are loaded (42 R195, log 23). -/
theorem getElem_writeCells_take {m : Nat} (v : Vector Byte m) {text : List Byte} {n : Nat} (hlen : n ≤ text.length) (hn : n ≤ m)
    (i : Fin m) : (writeCells v 0 (text.take n))[i] = if i.val < n then text.getD i.val 0 else v[i] := by
  have hx : (text.take n).length = n := List.length_take_of_le hlen
  have hcell := getElem_writeCells v (bs := text.take n) (hx.trans_le hn) i.isLt
  rw [hx] at hcell
  refine hcell.trans ?_
  split
  · next hi => simp [List.getD, hi]
  · rfl

/-- Settles O28: the body of `WRITE_TEXT` accounts for its events and leaves its registers. -/
theorem writeTextEffect : Obligations.WriteTextEffect := by
  unfold Obligations.WriteTextEffect
  intro text n s hvalid hrun hlen hn
  have hx : (text.take n).length = n := List.length_take_of_le hlen
  have hmax : (text.take n).length ≤ maxText := hx.trans_le hn
  have hacc := textBody_accounted hvalid hmax (beginOp .writeText s) rfl
  have heq := textBody_eq hmax (beginOp .writeText s)
  have hnow := hacc.now
  rw [elapsed_textEvents, hx] at hnow
  rw [hx] at heq
  refine ⟨_, runTextOp_of_canRun hrun .writeText hlen hn textBody, hacc.trace, hacc.dev, ?_, fun i => ?_, hnow, ?_⟩
  · rw [finish_dev, hacc.dev]
    exact (transmits_writesOnly hvalid .character _).fsel s.dev
  · rw [finish_txt, heq]
    exact getElem_writeCells_take s.txt hlen hn i
  · rw [finish_txt]
    refine (congrArg finish heq).trans ?_
    rw [show (textBody (text.take n) (beginOp .writeText s)).txt = writeCells s.txt 0 (text.take n) by rw [heq]; rfl]
    rfl

/-- Settles O33: the body of `RENDER` accounts for its events and leaves its registers. -/
theorem renderEffect : Obligations.RenderEffect := by
  unfold Obligations.RenderEffect
  intro text n s hvalid hrun hlen hn
  have hx : (text.take n).length = n := List.length_take_of_le hlen
  have hmax : (text.take n).length ≤ maxText := hx.trans_le hn
  have hacc := renderBody_accounted hvalid hmax (beginOp .render s) rfl
  have heq := renderBody_eq hmax (beginOp .render s)
  rw [hx] at heq
  refine ⟨_, runTextOp_of_canRun hrun .render hlen hn renderBody, hacc.trace, hacc.dev, fun i => ?_, ?_⟩
  · rw [finish_txt, heq]
    exact getElem_writeCells_take s.txt hlen hn i
  · rw [finish_txt]
    refine (congrArg finish heq).trans ?_
    rw [show (renderBody (text.take n) (beginOp .render s)).txt = writeCells s.txt 0 (text.take n) by rw [heq]; rfl]
    rfl

/-! ## The bytes on the bus -/

theorem highNibble_append_lowNibble (b : Byte) : highNibble b ++ lowNibble b = b := by
  refine BitVec.eq_of_getLsbD_eq fun i hi => ?_
  simp only [highNibble, lowNibble, BitVec.getLsbD_append, BitVec.getLsbD_extractLsb']
  grind

/-- The pairs of the latch events of a text are its bytes, with its mode (45 R272). -/
theorem busWords_byteLatches (rw : Bool) (m : Mode) (bs : List Byte) :
    busWords (bs.flatMap (byteLatches rw m)) = bs.map fun b => (m.bit, b) := by
  induction bs with
  | nil => rfl
  | cons b bs ih =>
    rw [List.flatMap_cons, byteLatches, List.cons_append, List.cons_append, List.nil_append, busWords, ih, highNibble_append_lowNibble,
      List.map_cons]

theorem length_byteLatches (rw : Bool) (m : Mode) (bs : List Byte) : (bs.flatMap (byteLatches rw m)).length = 2 * bs.length := by
  simp [List.length_flatMap, byteLatches, Nat.mul_comm]

/-- Settles O29: the latch events of the body are those of its bytes. -/
theorem writeTextSpellsBytes : Obligations.WriteTextSpellsBytes := by
  unfold Obligations.WriteTextSpellsBytes
  intro text n s t hvalid hd h
  obtain ⟨hrun, h⟩ := whenActive_next h
  split at h <;> cases h
  next x hx =>
  obtain ⟨⟨hlen, hn⟩, htake⟩ := Option.ite_none_right_eq_some.1 hx
  cases htake
  have hlength : (text.take n).length = n := List.length_take_of_le hlen
  have hacc := textBody_accounted hvalid (hlength.trans_le hn) (beginOp .writeText s) rfl
  refine ⟨_, hacc.latched_eq (transmits_shows hvalid .character (text.take n) (lcdDriven_iff.1 hd)), ?_, rfl, fun l hl => ?_,
    busWords_byteLatches _ .character _⟩
  · rw [length_byteLatches, hlength]
  · obtain ⟨b, -, hl⟩ := List.mem_flatMap.1 hl
    simp only [byteLatches, List.mem_cons, List.not_mem_nil, or_false] at hl
    obtain rfl | rfl := hl <;> rfl

end Sys2Proof.Machine
end

section
/-!
PROOFS. The invariant of the block (Sys2Proof/Safety.lean) is kept by every step, and only bytes that are no instruction fault: what a
whole instruction leaves in the registers it bounds, and where each position of an operation goes.
-/

namespace Sys2Proof.Machine

variable {s t u : State}

/-! ## The bits that belong to no pin -/

theorem or_masked_pinless {w : Nat} {x y m : BitVec w} (h : x &&& ~~~m = 0) : (x ||| (y &&& m)) &&& ~~~m = 0 := by
  refine BitVec.eq_of_getLsbD_eq fun i hi => ?_
  have hbit := congrArg (fun v => v.getLsbD i) h
  simp only [BitVec.getLsbD_and, BitVec.getLsbD_or, BitVec.getLsbD_not] at hbit ⊢
  grind

theorem and_pinless {w : Nat} {x y m : BitVec w} (h : x &&& ~~~m = 0) : (x &&& y) &&& ~~~m = 0 := by
  rw [BitVec.and_assoc, BitVec.and_comm y, ← BitVec.and_assoc, h]
  exact BitVec.zero_and

/-- A register write leaves the bits of bank 1 that belong to no pin clear (10 R22). -/
theorem deviceWrite_pinless (r : Reg) (v : Reg32) {d : Device} (h : d.outl[1] &&& ~~~(pinMask 1) = 0) :
    (deviceWrite r v d).outl[1] &&& ~~~(pinMask 1) = 0 := by
  cases r with
  | fsel | lev => exact h
  | set j =>
    match j with
    | 0 => simpa [deviceWrite] using h
    | 1 => simpa [deviceWrite] using or_masked_pinless h
  | clr j =>
    match j with
    | 0 => simpa [deviceWrite] using h
    | 1 => simpa [deviceWrite] using and_pinless h

theorem Work.pinless (hw : Work s t) (h : s.dev.outl[1] &&& ~~~(pinMask 1) = 0) : t.dev.outl[1] &&& ~~~(pinMask 1) = 0 := by
  induction hw with
  | refl => exact h
  | tail _ hstep ih =>
    cases hstep with
    | own hb => rwa [hb.dev]
    | barrier | delay | log | readFsel | readLev => exact ih
    | write r v u => exact deviceWrite_pinless r v ih

/-! ## The registers a whole instruction leaves -/

/-- The registers with a bound are within it, and nothing of a request is kept (10 R29, R30, R33). -/
structure Tidy (s : State) : Prop where
  cnt : s.cnt ≤ 16
  idx : s.idx ≤ s.cnt
  initIdx : s.initIdx ≤ 6
  req : s.req = emptyReq
  reqLen : s.reqLen = 0
  resp : s.resp = emptyResp
  respLen : s.respLen = 0

theorem Tidy.of_pinFrame (h : Tidy s) (k : PinFrame s t) : Tidy t := by
  rw [k]
  exact ⟨h.cnt, h.idx, h.initIdx, h.req, h.reqLen, h.resp, h.respLen⟩

theorem Tidy.transmitByte (h : Tidy s) (b : Byte) (m : Mode) : Tidy (transmitByte b m s) :=
  Tidy.of_pinFrame (s := loadByte b m s) ⟨h.cnt, h.idx, h.initIdx, h.req, h.reqLen, h.resp, h.respLen⟩ (transmitByte_frame b m s)

theorem Tidy.initBody (h : Tidy s) : Tidy (initBody s) := by
  rw [initBody_eq]
  exact ⟨h.cnt, h.idx, le_refl 6, h.req, h.reqLen, h.resp, h.respLen⟩

theorem Tidy.textBody (h : Tidy s) {text : List Byte} (hlen : text.length ≤ maxText) : Tidy (textBody text s) := by
  rw [textBody_eq hlen]
  exact ⟨hlen, le_refl _, h.initIdx, h.req, h.reqLen, h.resp, h.respLen⟩

theorem Tidy.renderBody (h : Tidy s) {text : List Byte} (hlen : text.length ≤ maxText) : Tidy (renderBody text s) := by
  rw [renderBody_eq hlen]
  exact ⟨hlen, le_refl _, le_refl 6, h.req, h.reqLen, h.resp, h.respLen⟩

theorem Tidy.setResult (h : Tidy s) (r : Result) : Tidy { s with result := r } :=
  ⟨h.cnt, h.idx, h.initIdx, h.req, h.reqLen, h.resp, h.respLen⟩

theorem Tidy.readPin (h : Tidy s) (p : Pin) : Tidy (readPin p s) where
  cnt := by simpa [Machine.readPin] using h.cnt
  idx := by simpa [Machine.readPin] using h.idx
  initIdx := by simpa [Machine.readPin] using h.initIdx
  req := by simpa [Machine.readPin] using h.req
  reqLen := by simpa [Machine.readPin] using h.reqLen
  resp := by simpa [Machine.readPin] using h.resp
  respLen := by simpa [Machine.readPin] using h.respLen

theorem Tidy.readPinResult (h : Tidy s) (p : Pin) : Tidy (readPinResult p s) := (h.readPin p).setResult _

theorem Tidy.responseOver (h : Tidy s) (d : Bool) (r : Result) : Tidy (dropResponse { storeResponse d s with result := r }) :=
  ⟨h.cnt, h.idx, h.initIdx, h.req, h.reqLen, rfl, rfl⟩

theorem Tidy.readReqBody (h : Tidy s) : Tidy (readReqBody s) := (h.readPin _).responseOver _ _

theorem Tidy.requestOver (h : Tidy s) (bytes : List Byte) (r : Result) : Tidy (dropRequest { storeRequest bytes s with result := r }) :=
  ⟨h.cnt, h.idx, h.initIdx, rfl, rfl, h.resp, h.respLen⟩

/-- The request that `WRITE_REQ` stores is dropped again when it is over (10 R33). -/
theorem Tidy.writeReqBody (h : Tidy s) (bytes : List Byte) : Tidy (dropRequest (writeReqBody bytes s)) := by
  cases htext : acceptedText bytes with
  | none =>
    rw [writeReqBody_of_rejected htext]
    exact Tidy.requestOver (s := logEntry s) ⟨h.cnt, h.idx, h.initIdx, h.req, h.reqLen, h.resp, h.respLen⟩ bytes _
  | some text =>
    rw [writeReqBody_of_accepted htext, (unseen_storeRequest bytes).renderBody]
    exact (h.renderBody (acceptedText_length htext)).requestOver bytes _

theorem Tidy.beginOp (h : Tidy s) (op : OpName) : Tidy (beginOp op s) :=
  ⟨h.cnt, h.idx, h.initIdx, h.req, h.reqLen, h.resp, h.respLen⟩

theorem Tidy.finish (h : Tidy s) : Tidy (finish s) := ⟨h.cnt, h.idx, h.initIdx, h.req, h.reqLen, h.resp, h.respLen⟩

/-- A whole instruction leaves the registers within their bounds and nothing of a request. -/
theorem exec_tidy {i : Instr} (hs : Tidy s) (h : exec i s = .next t) : Tidy t := by
  cases i with
  | activate ok =>
    obtain rfl := activate_next h
    cases ok with
    | false => exact ⟨hs.cnt, hs.idx, hs.initIdx, hs.req, hs.reqLen, hs.resp, hs.respLen⟩
    | true =>
      have hbody : Tidy (configureAllBody (activating s)) :=
        Tidy.of_pinFrame (s := activating s) ⟨hs.cnt, hs.idx, hs.initIdx, hs.req, hs.reqLen, hs.resp, hs.respLen⟩ (configureAllBody_frame _)
      exact ⟨hbody.cnt, hbody.idx, hbody.initIdx, hbody.req, hbody.reqLen, hbody.resp, hbody.respLen⟩
  | deactivate =>
    obtain rfl := deactivate_next h
    exact ⟨hs.cnt, hs.idx, hs.initIdx, hs.req, hs.reqLen, hs.resp, hs.respLen⟩
  | transmit | writeCommand | writeChar | lcdCommand | lcdChar | init0 | init1 | init2 | init3 | init4 | init5 | notSent28 =>
    obtain ⟨-, h⟩ := whenActive_next h
    cases h
    exact ((hs.beginOp _).transmitByte _ _).finish
  | init =>
    obtain ⟨-, h⟩ := whenActive_next h
    cases h
    exact (hs.beginOp _).initBody.finish
  | configureAll =>
    obtain ⟨-, h⟩ := whenActive_next h
    cases h
    exact ((hs.beginOp _).of_pinFrame (configureAllBody_frame _)).finish
  | ledSet =>
    obtain ⟨-, h⟩ := whenActive_next h
    cases h
    exact ((hs.beginOp _).of_pinFrame (setPin_frame _ _ _)).finish
  | buttonRead =>
    obtain ⟨-, h⟩ := whenActive_next h
    cases h
    exact ((hs.beginOp _).readPinResult _).finish
  | readReq =>
    obtain ⟨-, h⟩ := whenActive_next h
    cases h
    exact (hs.beginOp _).readReqBody.finish
  | writeReq bytes =>
    obtain ⟨-, h⟩ := whenActive_next h
    cases h
    exact ((hs.beginOp _).writeReqBody bytes).finish
  | configure =>
    obtain ⟨-, h⟩ := whenActive_next h
    split at h <;> cases h
    exact ((hs.beginOp _).of_pinFrame (configurePins_frame _ _ _)).finish
  | set =>
    obtain ⟨-, h⟩ := whenActive_next h
    split at h <;> cases h
    exact ((hs.beginOp _).of_pinFrame (setPin_frame _ _ _)).finish
  | read =>
    obtain ⟨-, h⟩ := whenActive_next h
    split at h <;> cases h
    exact ((hs.beginOp _).readPinResult _).finish
  | writeText =>
    obtain ⟨-, h⟩ := whenActive_next h
    split at h <;> cases h
    next text htext => exact ((hs.beginOp _).textBody (textOf?_length htext)).finish
  | render =>
    obtain ⟨-, h⟩ := whenActive_next h
    split at h <;> cases h
    next text htext => exact ((hs.beginOp _).renderBody (textOf?_length htext)).finish
  | gpfsel0 | gpfsel1 | gpfsel2 | gpfsel3 | gpfsel4 | gpfsel5 | gpset0 | gpset1 | gpclr0 | gpclr1 | gplev0 | gplev1 =>
    obtain ⟨-, h⟩ := whenActive_next h
    unfold accessReg at h
    split at h <;> cases h <;> exact ⟨hs.cnt, hs.idx, hs.initIdx, hs.req, hs.reqLen, hs.resp, hs.respLen⟩
  | fselPlace | pinBit =>
    simp only [exec, execFselPlace, execPinBit] at h
    split at h
    · obtain ⟨-, h⟩ := whenActive_next h
      cases h
      exact ⟨hs.cnt, hs.idx, hs.initIdx, hs.req, hs.reqLen, hs.resp, hs.respLen⟩
    · cases (whenActive_next h).2
  | fselInput | fselOutput | fselAlt2 | fselAlt3 | fselAlt4 | fselAlt5 | fselAlt6 | fselAlt7 | latchSample | wireReadResp
  | wireWriteReq =>
    obtain ⟨-, h⟩ := whenActive_next h
    cases h
    exact ⟨hs.cnt, hs.idx, hs.initIdx, hs.req, hs.reqLen, hs.resp, hs.respLen⟩

/-- After a whole instruction `READY` is set only while Active (60 R299). -/
theorem exec_readyActive {i : Instr} (hs : s.ready = true → s.life = .active) (h : exec i s = .next t) :
    t.ready = true → t.life = .active := by
  obtain hi | ⟨ok, rfl⟩ | rfl := needsActive_or_lifecycle i
  · obtain ⟨k, hk⟩ := exec_eq_whenActive hi s
    obtain ⟨⟨hlife, -⟩, -⟩ := whenActive_next (hk.symm.trans h)
    exact fun _ => (exec_opFrame hi h).life.trans hlife
  · obtain rfl := activate_next h
    cases ok with
    | false => exact hs
    | true => exact fun _ => configureAllBody_life _
  · obtain rfl := deactivate_next h
    nofun

/-! ## The invariant of a block at rest -/

theorem initInProgress_idle (h : s.seq = Seq.idle) : initInProgress s = false := by rw [initInProgress, h]; rfl

/-- A block with nothing in progress meets the invariant where its registers are tidy and its parameters valid. -/
theorem Inv.of_rest (hcfg : s.cfg.valid = true) (hpin : s.dev.outl[1] &&& ~~~(pinMask 1) = 0) (htidy : Tidy s)
    (hready : s.ready = true → s.life = .active) (hbusy : s.busy = false) (hseq : s.seq = Seq.idle) (harg : s.arg = []) : Inv s where
  cfgValid := hcfg
  pinlessBits := hpin
  cntBound := htidy.cnt
  idxBound := htidy.idx
  initIdxBound := htidy.initIdx
  reqLenBound := by rw [htidy.reqLen]; exact Nat.zero_le _
  respLenBound := by rw [htidy.respLen]; exact Nat.zero_le _
  requestDropped := fun _ => ⟨htidy.req, htidy.reqLen⟩
  requestHeld := fun h => by rw [hseq] at h; cases h
  responseDropped := ⟨htidy.resp, htidy.respLen⟩
  readyActive := hready
  initNotReady := fun h => by rw [initInProgress_idle hseq] at h; cases h
  resultAwaited := fun h => by rw [hbusy] at h; cases h
  busyPosition := fun h => by rw [hbusy] at h; cases h
  idlePosition := fun _ => ⟨hseq, harg⟩

theorem Inv.tidy (h : Inv s) (hop : s.seq.op ≠ .writeReq) : Tidy s :=
  ⟨h.cntBound, h.idxBound, h.initIdxBound, (h.requestDropped hop).1, (h.requestDropped hop).2, h.responseDropped.1,
    h.responseDropped.2⟩

theorem Inv.tidy_of_idle (h : Inv s) (hbusy : s.busy = false) : Tidy s :=
  h.tidy (by rw [(h.idlePosition hbusy).1]; decide)

/-- The invariant does not speak of what is still to be presented. -/
theorem Inv.port (h : Inv s) (rest : List (Option Presented)) : Inv { s with port := rest } := by
  obtain ⟨h₁, h₂, h₃, h₄, h₅, h₆, h₇, h₈, h₉, h₁₀, h₁₁, h₁₂, h₁₃, h₁₄, h₁₅⟩ := h
  exact ⟨h₁, h₂, h₃, h₄, h₅, h₆, h₇, h₈, fun hop => ⟨(h₉ hop).1, congrArg (fun u : State => { u with port := rest }) (h₉ hop).2⟩,
    h₁₀, h₁₁, h₁₂, h₁₃, h₁₄, h₁₅⟩

theorem exec_not_busy {i : Instr} (h : exec i s = .next t) : s.busy = false := by
  obtain hi | ⟨ok, rfl⟩ | rfl := needsActive_or_lifecycle i
  · obtain ⟨k, hk⟩ := exec_eq_whenActive hi s
    exact (whenActive_next (hk.symm.trans h)).1.2
  · simp only [exec, execActivate] at h
    split_ifs at h with _ hbusy <;> exact Bool.eq_false_of_not_eq_true hbusy
  · simp only [exec, execDeactivate] at h
    split_ifs at h with hno
    exact Bool.eq_false_of_not_eq_true fun hbusy => hno (.inr hbusy)

/-- A whole instruction keeps the invariant. -/
theorem exec_inv {i : Instr} (hs : Inv s) (h : exec i s = .next t) : Inv t := by
  have hidle := hs.idlePosition (exec_not_busy h)
  have hwork := exec_work h
  obtain ⟨hbusy, hover⟩ := exec_over h
  have hrest : t.seq = Seq.idle ∧ t.arg = [] := by
    obtain hover | ⟨hseq, harg⟩ := hover
    · exact hover
    · rwa [hseq, harg]
  exact .of_rest (by rw [hwork.cfg_eq, hs.cfgValid]) (hwork.pinless hs.pinlessBits)
    (exec_tidy (hs.tidy_of_idle (exec_not_busy h)) h) (exec_readyActive hs.readyActive h) hbusy hrest.1 hrest.2

end Sys2Proof.Machine
end

section
/-!
PROOFS. The positions of an operation keep the invariant of the block (Sys2Proof/Safety.lean), and each of them has a next one, so only
bytes that are no instruction fault.
-/

namespace Sys2Proof.Machine

variable {s t u : State}

/-! ## What stays while an operation is in progress -/

/-- The registers that no position of an operation writes before it is over. -/
structure SameHost (s t : State) : Prop where
  life : t.life = s.life
  busy : t.busy = s.busy
  result : t.result = s.result
  req : t.req = s.req
  reqLen : t.reqLen = s.reqLen
  resp : t.resp = s.resp
  respLen : t.respLen = s.respLen
  arg : t.arg = s.arg
  op : t.seq.op = s.seq.op

theorem SameHost.trans (h : SameHost s t) (k : SameHost t u) : SameHost s u :=
  ⟨k.life.trans h.life, k.busy.trans h.busy, k.result.trans h.result, k.req.trans h.req, k.reqLen.trans h.reqLen,
    k.resp.trans h.resp, k.respLen.trans h.respLen, k.arg.trans h.arg, k.op.trans h.op⟩

theorem PinFrame.sameHost (h : PinFrame s t) : SameHost s t := by
  rw [h]
  exact ⟨rfl, rfl, rfl, rfl, rfl, rfl, rfl, rfl, rfl⟩

theorem byteNext_sameHost (s : State) : SameHost s (byteNext s) := by
  rw [byteNext_frame]
  exact ⟨rfl, rfl, rfl, rfl, rfl, rfl, rfl, rfl, rfl⟩

theorem startByte_sameHost (b : Byte) (m : Mode) (s : State) : SameHost s (startByte b m s) :=
  ⟨rfl, rfl, rfl, rfl, rfl, rfl, rfl, rfl, rfl⟩

theorem nextByte_sameHost (more : Bool) (b : Byte) (m : Mode) (s : State) : SameHost s (nextByte more b m s) := by
  cases more
  · exact (PinFrame.refl s).sameHost
  · exact startByte_sameHost b m s

theorem startInit_sameHost (s : State) : SameHost s (startInit s) := ⟨rfl, rfl, rfl, rfl, rfl, rfl, rfl, rfl, rfl⟩
theorem nextInit_sameHost (s : State) : SameHost s (nextInit s) := ⟨rfl, rfl, rfl, rfl, rfl, rfl, rfl, rfl, rfl⟩
theorem setReady_sameHost (b : Bool) (s : State) : SameHost s (setReady b s) := ⟨rfl, rfl, rfl, rfl, rfl, rfl, rfl, rfl, rfl⟩
theorem loadText_sameHost (text : List Byte) (s : State) : SameHost s (loadText text s) :=
  ⟨rfl, rfl, rfl, rfl, rfl, rfl, rfl, rfl, rfl⟩
theorem nextText_sameHost (s : State) : SameHost s (nextText s) := ⟨rfl, rfl, rfl, rfl, rfl, rfl, rfl, rfl, rfl⟩
theorem enterPhase_sameHost (ph : Phase) (s : State) : SameHost s (enterPhase ph s) := ⟨rfl, rfl, rfl, rfl, rfl, rfl, rfl, rfl, rfl⟩

theorem enterInit_sameHost (s : State) : SameHost s (enterInit s) := (startInit_sameHost s).trans (startByte_sameHost _ _ _)

theorem advanceInit_sameHost (s : State) : SameHost s (advanceInit s) := (nextInit_sameHost s).trans (nextByte_sameHost _ _ _ _)

theorem enterText_sameHost (text : List Byte) (s : State) : SameHost s (enterText text s).1 :=
  (loadText_sameHost text s).trans (nextByte_sameHost _ _ _ _)

theorem advanceText_sameHost (s : State) : SameHost s (advanceText s).1 := (nextText_sameHost s).trans (nextByte_sameHost _ _ _ _)

/-- The request in its buffer is the one held (44 R250). -/
theorem eq_storeRequest_iff {a : List Byte} :
    s = storeRequest a s ↔ s.req = writeCells emptyReq 0 (a.take reqBuf) ∧ s.reqLen = (cutRequest a).length := by
  refine ⟨fun h => ⟨congrArg State.req h, congrArg State.reqLen h⟩, fun ⟨hreq, hlen⟩ => ?_⟩
  rw [storeRequest, ← hreq, ← hlen]

/-- What holds all through an operation that has positions. -/
structure Underway (s : State) : Prop where
  life : s.life = .active
  busy : s.busy = true
  result : s.result = .empty
  dropped : s.seq.op ≠ .writeReq → s.req = emptyReq ∧ s.reqLen = 0
  held : s.seq.op = .writeReq → acceptedText s.arg ≠ none ∧ s = storeRequest s.arg s
  resp : s.resp = emptyResp
  respLen : s.respLen = 0

theorem Underway.keep (h : Underway s) (k : SameHost s t) : Underway t where
  life := k.life.trans h.life
  busy := k.busy.trans h.busy
  result := k.result.trans h.result
  dropped := by rw [k.op, k.req, k.reqLen]; exact h.dropped
  held := by rw [k.op, k.arg, eq_storeRequest_iff, k.req, k.reqLen, ← eq_storeRequest_iff]; exact h.held
  resp := k.resp.trans h.resp
  respLen := k.respLen.trans h.respLen

theorem Inv.underway (h : Inv s) (hbusy : s.busy = true) : Underway s :=
  ⟨(h.busyPosition hbusy).1, hbusy, h.resultAwaited hbusy, h.requestDropped, h.requestHeld, h.responseDropped.1, h.responseDropped.2⟩

/-- The indexes within their bounds (10 R29, R30). -/
structure Counted (s : State) : Prop where
  cnt : s.cnt ≤ 16
  idx : s.idx ≤ s.cnt
  initIdx : s.initIdx ≤ 6

theorem Inv.counted (h : Inv s) : Counted s := ⟨h.cntBound, h.idxBound, h.initIdxBound⟩

theorem length_cutRequest_le (bytes : List Byte) : (cutRequest bytes).length ≤ 32 :=
  (List.takeWhile_sublist _).length_le.trans (List.length_take_le _ _)

/-- A block at a legal position of an operation meets the invariant. -/
theorem Inv.of_underway (hcfg : s.cfg.valid = true) (hpin : s.dev.outl[1] &&& ~~~(pinMask 1) = 0) (hcounted : Counted s)
    (hu : Underway s) (hready : initInProgress s = true → s.ready = false) (hlegal : positionLegal s = true) : Inv s where
  cfgValid := hcfg
  pinlessBits := hpin
  cntBound := hcounted.cnt
  idxBound := hcounted.idx
  initIdxBound := hcounted.initIdx
  reqLenBound := by
    by_cases hop : s.seq.op = .writeReq
    · rw [(eq_storeRequest_iff.1 (hu.held hop).2).2]
      exact length_cutRequest_le _
    · rw [(hu.dropped hop).2]
      exact Nat.zero_le _
  respLenBound := by rw [hu.respLen]; exact Nat.zero_le _
  requestDropped := hu.dropped
  requestHeld := hu.held
  responseDropped := ⟨hu.resp, hu.respLen⟩
  readyActive := fun _ => hu.life
  initNotReady := hready
  resultAwaited := fun _ => hu.result
  busyPosition := fun _ => ⟨hu.life, hlegal⟩
  idlePosition := fun h => by rw [hu.busy] at h; cases h

/-- An operation that goes on to a legal position keeps the invariant. -/
theorem Inv.goesOn (hs : Inv s) (hbusy : s.busy = true) (hw : Work s t) (hk : SameHost s t) (hcounted : Counted t)
    (hready : initInProgress t = true → t.ready = false) (hlegal : positionLegal t = true) : Inv t :=
  .of_underway (by rw [hw.cfg_eq, hs.cfgValid]) (hw.pinless hs.pinlessBits) hcounted ((hs.underway hbusy).keep hk) hready hlegal

/-- An operation that is over keeps the invariant: what it held has ended with it (70 R335, 10 R33). -/
theorem Inv.isOver (hs : Inv s) (hbusy : s.busy = true) (hw : Work s u) (hk : SameHost s u) (hcounted : Counted u) :
    Inv (wrapUp s (finish u)) := by
  have hu := (hs.underway hbusy).keep hk
  have hwork : Work s (wrapUp s (finish u)) := by
    refine (hw.trans (finish_work u)).trans ?_
    unfold wrapUp
    split
    · exact closeRequest_work _ _
    · exact .refl _
  have hready : (wrapUp s (finish u)).life = .active := by
    unfold wrapUp
    split <;> exact hu.life
  have harg : (wrapUp s (finish u)).arg = [] := by
    unfold wrapUp
    split <;> rfl
  refine .of_rest (by rw [hwork.cfg_eq, hs.cfgValid]) (hwork.pinless hs.pinlessBits) ?_ (fun _ => hready) (wrapUp_busy s _)
    (wrapUp_seq s _) harg
  unfold wrapUp
  split
  · exact ⟨hcounted.cnt, hcounted.idx, hcounted.initIdx, rfl, rfl, hu.resp, hu.respLen⟩
  · next hop =>
    obtain ⟨hreq, hlen⟩ := hu.dropped (by rwa [hk.op])
    exact ⟨hcounted.cnt, hcounted.idx, hcounted.initIdx, hreq, hlen, hu.resp, hu.respLen⟩

theorem wrapUp_of_ne (hop : s.seq.op ≠ .writeReq) (t : State) : wrapUp s t = t := if_neg hop

/-! ## Legal positions -/

/-- `OP`, `PHASE` and the indexes where a byte is in flight. -/
def byteHost (s : State) : Bool :=
  match s.seq.op with
  | .transmit | .writeCommand | .writeChar => decide (s.seq.phase = .none)
  | .init => decide (s.seq.phase = .byte s.initIdx) && decide (s.initIdx < 6)
  | .writeText => decide (s.seq.phase = .byte s.idx) && decide (s.idx < s.cnt)
  | .render | .writeReq =>
    decide (s.seq.phase = .init) && decide (s.initIdx < 6) && decide ((textInProgress s).length ≤ 16) ||
      decide (s.seq.phase = .text) && decide (s.idx < s.cnt)
  | .idle | .configure | .set | .read | .configureAll | .ledSet | .buttonRead | .activate | .deactivate | .readReq => false

/-- A position of the table is legal by what is around the byte. -/
theorem positionLegal_of_bytePosition (hb : bytePosition s.seq = true) : positionLegal s = byteHost s := by
  have hst : s.seq.st ≠ .idle := fun h => by rw [bytePosition_idle h] at hb; cases hb
  have hinit : initPosition s = decide (s.initIdx < 6) := by simp [initPosition, hb, hst]
  have htext : textPosition s = decide (s.idx < s.cnt) := by simp [textPosition, hb]
  unfold positionLegal byteHost
  cases s.seq.op <;> simp only [hb, hinit, htext, hst, Bool.and_true]
  case init => by_cases hidx : s.initIdx < 6 <;> simp [hidx]
  case render | writeReq => cases s.seq.phase <;> simp [Bool.and_comm]

/-- The positions that are not inside a byte. -/
def StandsIdle (s : State) : Prop :=
  ((s.seq.op = .init ∧ s.initIdx = 6) ∨
    (RunsRender s.seq.op ∧ (textInProgress s).length ≤ maxText ∧
      (s.seq.phase = .cfg ∨ s.seq.phase = .settle ∨ (s.seq.phase = .init ∧ s.initIdx = 6)))) ∧ s.seq.st = .idle

theorem positionLegal_cases (hl : positionLegal s = true) : bytePosition s.seq = true ∨ StandsIdle s := by
  by_cases hb : bytePosition s.seq = true
  · exact .inl hb
  · refine .inr ?_
    unfold positionLegal initPosition textPosition at hl
    unfold StandsIdle RunsRender maxText
    cases hop : s.seq.op <;> simp only [hop, hb, Bool.and_false, Bool.false_or, Bool.and_eq_true, decide_eq_true_eq] at hl
    case init => exact ⟨.inl ⟨rfl, hl.2.1⟩, hl.2.2⟩
    case render | writeReq => cases hphase : s.seq.phase <;> simp_all
    all_goals cases hl

/-! ## A position inside a byte -/

theorem textInProgress_of_sameHost (k : SameHost s t) : textInProgress t = textInProgress s := by
  rw [textInProgress, textInProgress, k.op, k.arg]

@[simp] theorem byteNext_ready (s : State) : (byteNext s).ready = s.ready := by rw [byteNext_frame]

theorem byteHost_byteNext (s : State) : byteHost (byteNext s) = byteHost s := by
  have htext := textInProgress_of_sameHost (byteNext_sameHost s)
  simp only [byteHost, byteNext_op, byteNext_phase, byteNext_initIdx, byteNext_idx, byteNext_cnt, htext]

theorem Counted.byteNext (h : Counted s) : Counted (byteNext s) :=
  ⟨by rw [byteNext_cnt]; exact h.cnt, by rw [byteNext_idx, byteNext_cnt]; exact h.idx, by rw [byteNext_initIdx]; exact h.initIdx⟩

theorem byteNext_work (hb : bytePosition s.seq = true) : Work s (byteNext s) := byteStep_work (byteStep_eq hb)

theorem initInProgress_byteNext (s : State) : initInProgress (byteNext s) = initInProgress s := by
  simp only [initInProgress, byteNext_op, byteNext_phase]

/-- A row that is not the last of its byte keeps the invariant. -/
theorem Inv.byteNext (hs : Inv s) (hbusy : s.busy = true) (hb : bytePosition s.seq = true) (hlast : lastRow s = false) :
    Inv (byteNext s) := by
  obtain ⟨-, hlegal⟩ := hs.busyPosition hbusy
  rw [positionLegal_of_bytePosition hb] at hlegal
  refine hs.goesOn hbusy (byteNext_work hb) (byteNext_sameHost s) hs.counted.byteNext ?_ ?_
  · rw [initInProgress_byteNext, byteNext_ready]
    exact hs.initNotReady
  · rw [positionLegal_of_bytePosition (bytePosition_byteNext hb hlast), byteHost_byteNext, hlegal]

/-- Where `INIT` is, while a byte of it is in flight (42 R190, log 25). -/
theorem byteHost_init (h : byteHost s = true) (hinit : initInProgress s = true) :
    s.initIdx < 6 ∧ (s.seq.op = .init ∨ RunsRender s.seq.op ∧ s.seq.phase = .init ∧ (textInProgress s).length ≤ 16) := by
  unfold byteHost at h
  unfold initInProgress at hinit
  unfold RunsRender
  cases hop : s.seq.op <;> simp only [hop, Bool.and_eq_true, Bool.or_eq_true, decide_eq_true_eq] at h hinit ⊢
  case init => exact ⟨h.2, .inl trivial⟩
  case render | writeReq => simp_all
  all_goals cases hinit

/-- Where `WRITE_TEXT` is, while a byte of it is in flight (42 R195, log 25). -/
theorem byteHost_text (h : byteHost s = true) (htext : writeTextInProgress s = true) :
    s.idx < s.cnt ∧ (s.seq.op = .writeText ∨ RunsRender s.seq.op ∧ s.seq.phase = .text) := by
  unfold byteHost at h
  unfold writeTextInProgress at htext
  unfold RunsRender
  cases hop : s.seq.op <;> simp only [hop, Bool.and_eq_true, Bool.or_eq_true, decide_eq_true_eq] at h htext ⊢
  case writeText => exact ⟨h.2, .inl trivial⟩
  case render | writeReq => simp_all
  all_goals cases htext

/-- The next position of `INIT` after a byte of it is legal (42 R190). -/
theorem positionLegal_advanceInit (h : byteHost s = true) (hinit : initInProgress s = true) (hst : s.seq.st = .idle) :
    positionLegal (markPhase s.seq.op (advanceInit s)) = true := by
  have hhost : SameHost s (markPhase s.seq.op (advanceInit s)) := (advanceInit_sameHost s).trans (enterPhase_sameHost _ _)
  have htext := textInProgress_of_sameHost hhost
  obtain ⟨hidx, hplace⟩ := byteHost_init h hinit
  by_cases hmore : s.initIdx + 1 < 6
  · rw [advanceInit_of_more hmore] at htext ⊢
    rw [positionLegal_of_bytePosition rfl]
    obtain hop | ⟨hop | hop, hphase, hlen⟩ := hplace <;>
      simp_all [byteHost, markPhase, phaseAt, startByte]
  · rw [advanceInit_of_last hmore] at htext ⊢
    have hsix : s.initIdx + 1 = 6 := by omega
    obtain hop | ⟨hop | hop, hphase, hlen⟩ := hplace <;>
      simp_all [positionLegal, markPhase, phaseAt, initPosition]

theorem advanceInit_ready (s : State) : (advanceInit s).ready = s.ready := by
  rw [advanceInit, nextByte]
  split <;> rfl

theorem Counted.advanceInit (h : Counted s) (hidx : s.initIdx < 6) : Counted (advanceInit s) := by
  rw [Machine.advanceInit, nextByte]
  split <;> exact ⟨h.cnt, h.idx, hidx⟩

/-- The last row of a byte of `INIT` keeps the invariant (42 R190). -/
theorem Inv.advanceInit (hs : Inv s) (hbusy : s.busy = true) (hb : bytePosition s.seq = true) (hlast : lastRow s = true)
    (hinit : initInProgress s = true) : Inv (markPhase s.seq.op (advanceInit (Machine.byteNext s))) := by
  obtain ⟨-, hlegal⟩ := hs.busyPosition hbusy
  rw [positionLegal_of_bytePosition hb, ← byteHost_byteNext] at hlegal
  rw [← initInProgress_byteNext] at hinit
  have hhost : SameHost s (markPhase s.seq.op (Machine.advanceInit (Machine.byteNext s))) :=
    ((byteNext_sameHost s).trans (advanceInit_sameHost _)).trans (enterPhase_sameHost _ _)
  have hcounted := hs.counted.byteNext.advanceInit (byteHost_init hlegal hinit).1
  refine hs.goesOn hbusy (((byteNext_work hb).trans (advanceInit_work _)).trans (enterPhase_work _ _)) hhost
    ⟨hcounted.cnt, hcounted.idx, hcounted.initIdx⟩ (fun _ => ?_) ?_
  · refine ((advanceInit_ready _).trans (byteNext_ready s)).trans (hs.initNotReady ?_)
    rwa [← initInProgress_byteNext]
  · rw [← byteNext_op]
    exact positionLegal_advanceInit hlegal hinit (of_decide_eq_true hlast)

/-- The next position of `WRITE_TEXT` after a byte of it that is not the last is legal, and is not in `INIT` (42 R195). -/
theorem positionLegal_advanceText (h : byteHost s = true) (htext : writeTextInProgress s = true) (hmore : s.idx + 1 < s.cnt) (b : Byte) :
    positionLegal (markPhase s.seq.op (startByte b .character (nextText s))) = true ∧
      initInProgress (markPhase s.seq.op (startByte b .character (nextText s))) = false := by
  rw [positionLegal_of_bytePosition rfl]
  obtain ⟨-, hop | ⟨hop | hop, hphase⟩⟩ := byteHost_text h htext <;>
    simp_all [byteHost, initInProgress, markPhase, phaseAt, startByte]

/-- The last row of a byte of `WRITE_TEXT` keeps the invariant (42 R195). -/
theorem Inv.advanceText (hs : Inv s) (hbusy : s.busy = true) (hb : bytePosition s.seq = true) (htext : writeTextInProgress s = true) :
    Inv (if (advanceText (Machine.byteNext s)).2 then wrapUp s (finish (advanceText (Machine.byteNext s)).1)
      else markPhase s.seq.op (advanceText (Machine.byteNext s)).1) := by
  obtain ⟨-, hlegal⟩ := hs.busyPosition hbusy
  rw [positionLegal_of_bytePosition hb, ← byteHost_byteNext] at hlegal
  have htext' : writeTextInProgress (Machine.byteNext s) = true := by
    simpa only [writeTextInProgress, byteNext_op, byteNext_phase] using htext
  have hhost := (byteNext_sameHost s).trans (advanceText_sameHost (Machine.byteNext s))
  have hwork := (byteNext_work hb).trans (advanceText_work (Machine.byteNext s))
  have hidx := (byteHost_text hlegal htext').1
  have hcounted := hs.counted.byteNext
  by_cases hmore : (Machine.byteNext s).idx + 1 < (Machine.byteNext s).cnt
  · rw [advanceText_of_more hmore] at hhost hwork ⊢
    obtain ⟨hnext, hnot⟩ := positionLegal_advanceText hlegal htext' hmore (cellAt (Machine.byteNext s).txt ((Machine.byteNext s).idx + 1))
    rw [byteNext_op] at hnext hnot
    refine hs.goesOn hbusy (hwork.trans (enterPhase_work _ _)) (hhost.trans (enterPhase_sameHost _ _))
      ⟨hcounted.cnt, hidx, hcounted.initIdx⟩ (fun h => ?_) hnext
    rw [if_neg Bool.false_ne_true, hnot] at h
    cases h
  · rw [advanceText_of_last hmore] at hhost hwork ⊢
    exact hs.isOver hbusy hwork hhost ⟨hcounted.cnt, hidx, hcounted.initIdx⟩

/-- A row of a transfer has a next state, which keeps the invariant. -/
theorem microStep_inv_of_row (hs : Inv s) (hbusy : s.busy = true) (hb : bytePosition s.seq = true) :
    ∃ t, microStep s = .next t ∧ Inv t := by
  obtain ⟨-, hlegal⟩ := hs.busyPosition hbusy
  have hc := carriesByte_of_positionLegal hlegal hb
  cases hlast : lastRow s with
  | false => exact ⟨_, microStep_row hc hb hbusy hlast, hs.byteNext hbusy hb hlast⟩
  | true =>
    obtain ⟨hlone, -, -⟩ | ⟨-, ⟨hinit, hidx⟩, -⟩ | ⟨-, -, htext⟩ := carriesByte_cases hc
    · have hop : s.seq.op ≠ .writeReq := by
        rintro hop
        simp [LoneTransfer, hop] at hlone
      have hover := hs.isOver hbusy (byteNext_work hb) (byteNext_sameHost s) hs.counted.byteNext
      rw [wrapUp_of_ne hop] at hover
      exact ⟨_, microStep_lastRow hlone hb hlast, hover⟩
    · exact ⟨_, microStep_lastRow_init hinit hidx hb hbusy hlast, hs.advanceInit hbusy hb hlast hinit⟩
    · exact ⟨_, microStep_lastRow_text htext hb hbusy hlast, hs.advanceText hbusy hb htext⟩

/-! ## The other positions -/

/-- The closing delay of a lone `INIT` ends it. -/
theorem microStep_initEnd (hop : s.seq.op = .init) (hidx : s.initIdx = 6) :
    microStep s = .next (finish (setReady true (delay tPostClearSettle s))) := by
  rw [microStep, hop, initStep_last (by omega)]
  rfl

/-- A position of `RENDER` that goes on has a next state, which keeps the invariant. -/
theorem microStep_inv_of_render (hs : Inv s) (hbusy : s.busy = true) (hop : RunsRender s.seq.op) (hstep : renderStep s = some t)
    (hk : SameHost s t) (hcounted : Counted t) (hready : initInProgress t = true → t.ready = false) (hlegal : positionLegal t = true) :
    ∃ t, microStep s = .next t ∧ Inv t := by
  have hpos := microStep_render hop hstep
  rw [hk.busy, hbusy, if_pos rfl] at hpos
  exact ⟨t, hpos, hs.goesOn hbusy (renderStep_work hstep) hk hcounted hready hlegal⟩

/-- `CONFIGURE_ALL` inside `RENDER` (43 R224). -/
theorem microStep_inv_of_cfg (hs : Inv s) (hbusy : s.busy = true) (hop : RunsRender s.seq.op)
    (hlen : (textInProgress s).length ≤ maxText) (hphase : s.seq.phase = .cfg) : ∃ t, microStep s = .next t ∧ Inv t := by
  have hstep : renderStep s = some (enterPhase .init (enterInit (configureAllBody s))) := by rw [renderStep, hphase]
  have hconf := configureAllBody_frame s
  have hhost := (hconf.sameHost.trans (enterInit_sameHost _)).trans (enterPhase_sameHost .init _)
  refine microStep_inv_of_render hs hbusy hop hstep hhost ?_ (fun _ => rfl) ?_
  · rw [hconf]
    exact ⟨hs.cntBound, hs.idxBound, Nat.zero_le _⟩
  · have htext := textInProgress_of_sameHost hhost
    have hidx : (enterPhase .init (enterInit (configureAllBody s))).initIdx = 0 := rfl
    rw [positionLegal_of_bytePosition rfl, byteHost, hhost.op, htext, hidx]
    obtain hop | hop := hop <;> simpa [hop, maxText] using hlen

/-- The closing delay of `INIT` inside `RENDER` (42 R190, 43 R224). -/
theorem microStep_inv_of_initEnd (hs : Inv s) (hbusy : s.busy = true) (hop : RunsRender s.seq.op)
    (hlen : (textInProgress s).length ≤ maxText) (hphase : s.seq.phase = .init) (hidx : s.initIdx = 6) (hst : s.seq.st = .idle) :
    ∃ t, microStep s = .next t ∧ Inv t := by
  have hstep : renderStep s = some (enterPhase .settle (setReady true (delay tPostClearSettle s))) := by
    rw [renderStep, hphase, initStep_last (by omega)]
    rfl
  have hhost := ((delay_frame tPostClearSettle s).sameHost.trans (setReady_sameHost true _)).trans (enterPhase_sameHost .settle _)
  refine microStep_inv_of_render hs hbusy hop hstep hhost ⟨hs.cntBound, hs.idxBound, hs.initIdxBound⟩ (fun h => ?_) ?_
  · obtain hop | hop := hop <;> simp [initInProgress, hop] at h
  · have htext := textInProgress_of_sameHost hhost
    rw [positionLegal, hhost.op, htext]
    obtain hop | hop := hop <;> simpa [hop, hst, maxText] using hlen

/-- The settle delay of `RENDER`, and the start of its text (43 R224). -/
theorem microStep_inv_of_settle (hs : Inv s) (hbusy : s.busy = true) (hop : RunsRender s.seq.op)
    (hlen : (textInProgress s).length ≤ maxText) (hphase : s.seq.phase = .settle) : ∃ t, microStep s = .next t ∧ Inv t := by
  let v := enterPhase .text (delay tPreRenderSettle s)
  have hstep : renderStep s = some (finishIf (enterText (textInProgress s) v)) := by rw [renderStep, hphase]
  have hhost : SameHost s (enterText (textInProgress s) v).1 :=
    ((delay_frame tPreRenderSettle s).sameHost.trans (enterPhase_sameHost .text _)).trans (enterText_sameHost _ v)
  have hwork : Work s (enterText (textInProgress s) v).1 :=
    ((delay_work tPreRenderSettle s).trans (enterPhase_work .text _)).trans (enterText_work _ v)
  by_cases hne : (textInProgress s).length = 0
  · have hpos := microStep_render hop hstep
    have hover : (enterText (textInProgress s) v).2 = true := decide_eq_true hne
    rw [finishIf, if_pos hover, finish_busy, if_neg Bool.false_ne_true] at hpos
    refine ⟨_, hpos, hs.isOver hbusy hwork hhost ?_⟩
    rw [enterText, nextByte]
    split <;> exact ⟨hlen, Nat.zero_le _, hs.initIdxBound⟩
  · have hmore : 0 < (textInProgress s).length := Nat.pos_of_ne_zero hne
    have hstart : (enterText (textInProgress s) v).1 =
        startByte (cellAt (loadText (textInProgress s) v).txt 0) .character (loadText (textInProgress s) v) := by
      simp [enterText, nextByte, hmore]
    have hover : (enterText (textInProgress s) v).2 = false := decide_eq_false hne
    rw [finishIf, hover, if_neg Bool.false_ne_true, hstart] at hstep
    rw [hstart] at hhost
    refine microStep_inv_of_render hs hbusy hop hstep hhost ⟨hlen, Nat.zero_le _, hs.initIdxBound⟩ (fun h => ?_) ?_
    · rw [initInProgress, hhost.op] at h
      obtain hop | hop := hop <;> rw [hop] at h <;> cases h
    · have hidx : (startByte (cellAt (loadText (textInProgress s) v).txt 0) .character (loadText (textInProgress s) v)).idx = 0 := rfl
      have hcnt : (startByte (cellAt (loadText (textInProgress s) v).txt 0) .character (loadText (textInProgress s) v)).cnt =
        (textInProgress s).length := rfl
      rw [positionLegal_of_bytePosition rfl, byteHost, hhost.op, hidx, hcnt]
      obtain hop | hop := hop <;> simp [hop, v, startByte, decide_eq_true hmore]

/-- Every position of an operation has a next state, which keeps the invariant. -/
theorem microStep_inv (hs : Inv s) (hbusy : s.busy = true) : ∃ t, microStep s = .next t ∧ Inv t := by
  obtain ⟨-, hlegal⟩ := hs.busyPosition hbusy
  obtain hb | ⟨⟨hop, hidx⟩ | ⟨hop, hlen, hphase | hphase | ⟨hphase, hidx⟩⟩, hst⟩ := positionLegal_cases hlegal
  · exact microStep_inv_of_row hs hbusy hb
  · have hover := hs.isOver hbusy ((delay_work tPostClearSettle s).trans (setReady_work true _))
      ((delay_frame tPostClearSettle s).sameHost.trans (setReady_sameHost true _)) ⟨hs.cntBound, hs.idxBound, hs.initIdxBound⟩
    rw [wrapUp_of_ne (by rw [hop]; decide)] at hover
    exact ⟨_, microStep_initEnd hop hidx, hover⟩
  · exact microStep_inv_of_cfg hs hbusy hop hlen hphase
  · exact microStep_inv_of_settle hs hbusy hop hlen hphase
  · exact microStep_inv_of_initEnd hs hbusy hop hlen hphase hidx hst

/-! ## The first positions -/

theorem Inv.begin (hs : Inv s) (hrun : CanRun s) {op : OpName} (hop : op ≠ .writeReq) : Underway (beginOp op s) where
  life := hrun.1
  busy := rfl
  result := rfl
  dropped := fun _ => ⟨(hs.tidy_of_idle hrun.2).req, (hs.tidy_of_idle hrun.2).reqLen⟩
  held := fun h => absurd h hop
  resp := hs.responseDropped.1
  respLen := hs.responseDropped.2

/-- A transfer accepted stands at a legal position (41 R162). -/
theorem launchByte_inv (hs : Inv s) {op : OpName} (hop : op ∈ [OpName.transmit, .writeCommand, .writeChar]) {b : Byte} {m : Mode}
    (h : launchByte op b m s = .next t) : Inv t := by
  obtain ⟨hrun, hnext⟩ := whenActive_next h
  cases hnext
  have hwork := launchByte_work h
  have hlone : op = .transmit ∨ op = .writeCommand ∨ op = .writeChar := by simpa using hop
  have hop' : op ≠ .writeReq := by
    rintro rfl
    simp at hop
  refine .of_underway hs.cfgValid (hwork.pinless hs.pinlessBits) ⟨hs.cntBound, hs.idxBound, hs.initIdxBound⟩
    ((hs.begin hrun hop').keep (startByte_sameHost b m _)) (fun h => ?_) ?_
  · obtain rfl | rfl | rfl := hlone <;> cases h
  · obtain rfl | rfl | rfl := hlone <;> rfl

/-- `INIT` accepted stands at its first byte, with `READY` cleared (42 R190). -/
theorem launch_init_inv (hs : Inv s) (h : launch .init s = .next t) : Inv t := by
  obtain ⟨hrun, hnext⟩ := whenActive_next h
  cases hnext
  have hhost := (enterInit_sameHost (beginOp .init s)).trans (enterPhase_sameHost (.byte 0) _)
  exact .of_underway hs.cfgValid ((launch_work h).pinless hs.pinlessBits) ⟨hs.cntBound, hs.idxBound, Nat.zero_le _⟩
    ((hs.begin hrun (by decide)).keep hhost) (fun _ => rfl) rfl

/-- `WRITE_TEXT` accepted stands at its first byte, or is over where it has none (42 R195, R196). -/
theorem launch_writeText_inv (hs : Inv s) {x : List Byte} {n : Nat} (h : launch (.writeText x n) s = .next t) : Inv t := by
  have hwork := launch_work h
  obtain ⟨hrun, hnext⟩ := whenActive_next h
  split at hnext <;> cases hnext
  next text htext =>
  have hlen := textOf?_length htext
  by_cases hne : text.length = 0
  · have hover : (enterText text (beginOp .writeText s)).2 = true := decide_eq_true hne
    have hbody : (enterText text (beginOp .writeText s)).1 = loadText text (beginOp .writeText s) := by simp [enterText, nextByte, hne]
    rw [if_pos hover, hbody] at hwork ⊢
    obtain ⟨-, -, hinit, hreq, hreqLen, hresp, hrespLen⟩ := hs.tidy_of_idle hrun.2
    exact .of_rest hs.cfgValid (hwork.pinless hs.pinlessBits) ⟨hlen, Nat.zero_le _, hinit, hreq, hreqLen, hresp, hrespLen⟩
      (fun _ => hrun.1) rfl rfl rfl
  · have hmore : 0 < text.length := Nat.pos_of_ne_zero hne
    have hover : (enterText text (beginOp .writeText s)).2 = false := decide_eq_false hne
    have hbody : (enterText text (beginOp .writeText s)).1 =
        startByte (cellAt (loadText text (beginOp .writeText s)).txt 0) .character (loadText text (beginOp .writeText s)) := by
      simp [enterText, nextByte, hmore]
    rw [hover, if_neg Bool.false_ne_true, hbody] at hwork ⊢
    have hload := (hs.begin hrun (op := .writeText) (by decide)).keep (loadText_sameHost text _)
    refine .of_underway hs.cfgValid (hwork.pinless hs.pinlessBits) ⟨hlen, Nat.zero_le _, hs.initIdxBound⟩
      (hload.keep ((startByte_sameHost _ _ _).trans (enterPhase_sameHost _ _))) nofun ?_
    have hlegal : (decide (Phase.byte 0 = .byte 0) && decide (0 < text.length)) = true := by simpa using hmore
    rw [positionLegal_of_bytePosition rfl]
    exact hlegal

/-- `RENDER` accepted stands at its first phase, its text held (43 R224). -/
theorem launch_render_inv (hs : Inv s) {x : List Byte} {n : Nat} (h : launch (.render x n) s = .next t) : Inv t := by
  have hwork := launch_work h
  obtain ⟨hrun, hnext⟩ := whenActive_next h
  split at hnext <;> cases hnext
  next text htext =>
  obtain ⟨hlife, hbusy, hresult, hdropped, hheld, hresp, hrespLen⟩ := hs.begin hrun (op := .render) (by decide)
  refine .of_underway hs.cfgValid (hwork.pinless hs.pinlessBits) ⟨hs.cntBound, hs.idxBound, hs.initIdxBound⟩
    ⟨hlife, hbusy, hresult, hdropped, nofun, hresp, hrespLen⟩ nofun ?_
  have hlegal : (decide (text.length ≤ 16) && true) = true := by simpa [maxText] using textOf?_length htext
  exact hlegal

/-- A write request accepted stands at its first phase, the request held and stored (44 R250). -/
theorem launch_writeReq_inv (hs : Inv s) {bytes : List Byte} (h : launch (.writeReq bytes) s = .next t) : Inv t := by
  have hwork := launch_work h
  obtain ⟨hrun, hnext⟩ := whenActive_next h
  split at hnext
  · next text htext =>
    cases hnext
    refine .of_underway hs.cfgValid (hwork.pinless hs.pinlessBits) ⟨hs.cntBound, hs.idxBound, hs.initIdxBound⟩
      ⟨hrun.1, rfl, rfl, fun hop => absurd rfl hop, fun _ => ⟨?_, rfl⟩, hs.responseDropped.1, hs.responseDropped.2⟩ nofun ?_
    · have haccepted : acceptedText bytes ≠ none := by rw [htext]; nofun
      exact haccepted
    · have hlegal : (decide (((acceptedText bytes).getD []).length ≤ 16) && true) = true := by
        simpa [htext, maxText] using acceptedText_length htext
      exact hlegal
  · exact exec_inv hs hnext

/-- An instruction accepted at position level keeps the invariant. -/
theorem launch_inv {i : Instr} (hs : Inv s) (h : launch i s = .next t) : Inv t := by
  cases i with
  | transmit | writeCommand | writeChar | lcdCommand | lcdChar | init0 | init1 | init2 | init3 | init4 | init5 | notSent28 =>
    exact launchByte_inv hs (by simp) h
  | init => exact launch_init_inv hs h
  | writeText => exact launch_writeText_inv hs h
  | render => exact launch_render_inv hs h
  | writeReq => exact launch_writeReq_inv hs h
  | _ => exact exec_inv hs ((launch_eq_exec rfl s).symm.trans h)

theorem perform_inv {i : Instr} (hs : Inv s) (h : perform i s = .next t) : Inv t := by
  unfold perform at h
  split at h
  · exact exec_inv hs h
  · exact launch_inv hs h

/-- Settles O3: whole instructions, first positions and later positions each keep the invariant. -/
theorem stepKeepsInvariant : Obligations.StepKeepsInvariant := by
  unfold Obligations.StepKeepsInvariant
  intro s t hs h
  obtain ⟨_, rest, _, _, -, -, -, h⟩ | ⟨hbusy, h⟩ | ⟨-, rfl⟩ := step_next_cases h
  · exact perform_inv (hs.port rest) h
  · obtain ⟨u, hu, hinv⟩ := microStep_inv (hs.port s.port.tail) hbusy
    rw [hu] at h
    cases h
    exact hinv
  · exact hs.port _

/-- Settles O2: the clauses of the invariant evaluated at power-on. -/
theorem powerOnMeetsInvariant : Obligations.PowerOnMeetsInvariant := by
  unfold Obligations.PowerOnMeetsInvariant
  exact .of_rest (by decide) (by decide) ⟨by decide, by decide, by decide, rfl, rfl, rfl, rfl⟩ nofun rfl rfl rfl

/-! ## Faults -/

theorem whenActive_fault {k : Answer} {f : Fault} (h : whenActive s k = .fault f) : k = .fault f := by
  unfold whenActive at h
  split_ifs at h
  exact h

/-- No instruction faults as a whole. -/
theorem exec_ne_fault (i : Instr) (s : State) (f : Fault) : exec i s ≠ .fault f := by
  intro h
  cases i with
  | activate ok =>
    simp only [exec, execActivate] at h
    split_ifs at h
  | deactivate =>
    simp only [exec, execDeactivate] at h
    split_ifs at h
  | configure | set | read | writeText | render =>
    have hk := whenActive_fault h
    split at hk <;> cases hk
  | gpfsel0 a | gpfsel1 a | gpfsel2 a | gpfsel3 a | gpfsel4 a | gpfsel5 a | gpset0 a | gpset1 a | gpclr0 a | gpclr1 a | gplev0 a
  | gplev1 a =>
    have hk := whenActive_fault h
    cases a <;> cases hk
  | fselPlace | pinBit =>
    simp only [exec, execFselPlace, execPinBit] at h
    split at h <;> cases whenActive_fault h
  | _ => cases whenActive_fault h

theorem launch_ne_fault (i : Instr) (s : State) (f : Fault) : launch i s ≠ .fault f := by
  intro h
  have hagrees := launch_agrees i s
  cases hexec : exec i s with
  | next t =>
    obtain ⟨s₁, hs₁, -⟩ := hagrees.next t hexec
    rw [hs₁] at h
    cases h
  | refused r =>
    rw [(hagrees.refused r).1 hexec] at h
    cases h
  | fault f => exact exec_ne_fault i s f hexec

theorem perform_ne_fault (i : Instr) (s : State) (f : Fault) : perform i s ≠ .fault f := by
  unfold perform
  split
  · exact exec_ne_fault i s f
  · exact launch_ne_fault i s f

theorem refuseAccess_ne_fault (s : State) (f : Fault) : refuseAccess s ≠ .fault f :=
  fun h => nomatch whenActive_fault h

theorem performPresented_ne_fault (i : Instr) (s : State) (f : Fault) : performPresented i s ≠ .fault f := by
  unfold performPresented
  split
  · exact refuseAccess_ne_fault s f
  · exact perform_ne_fault i s f

theorem rejectWord_fault {e : DecodeError} {f : Fault} : rejectWord e s = .fault f ↔ e ≠ .badOffset ∧ f = .undecodable e := by
  unfold rejectWord
  split
  · next he => simp [he, refuseAccess_ne_fault]
  · next he => simp [he, eq_comm]

/-- With nothing presented a block that meets the invariant does not fault. -/
theorem proceed_ne_fault (hs : Inv s) (f : Fault) : proceed s ≠ .fault f := by
  unfold proceed
  split
  · next hbusy =>
    obtain ⟨t, ht, -⟩ := microStep_inv hs hbusy
    rw [ht]
    nofun
  · nofun

/-- Settles O4: instructions and positions have an answer that is no fault, and what is left is a word that is not decoded. -/
theorem faultsOnlyOnUndecodable : Obligations.FaultsOnlyOnUndecodable := by
  unfold Obligations.FaultsOnlyOnUndecodable
  intro s f hs
  constructor
  · intro h
    by_cases hsilent : s.port = [] ∨ s.port.head? = some none
    · rw [step_of_silent hsilent] at h
      exact absurd h (proceed_ne_fault (hs.port _) f)
    · obtain ⟨w, rest, hport⟩ : ∃ w rest, s.port = some w :: rest := by
        match hport : s.port with
        | [] => exact absurd (.inl hport) hsilent
        | none :: rest => exact absurd (.inr (by rw [hport]; rfl)) hsilent
        | some w :: rest => exact ⟨w, rest, rfl⟩
      rw [step_of_presented hport] at h
      cases hdecode : decode w with
      | ok r =>
        rw [takePresented_ok hdecode] at h
        exact absurd h (performPresented_ne_fault _ _ f)
      | error e =>
        rw [takePresented_error hdecode, rejectWord_fault] at h
        exact ⟨w, rest, e, hport, hdecode, h⟩
  · rintro ⟨w, rest, e, hport, hdecode, h⟩
    rwa [step_of_presented hport, takePresented_error hdecode, rejectWord_fault]

end Sys2Proof.Machine
end

section
/-!
PROOFS. The GPIO bank and its registers (spec/20_memory.md R66 to R69, spec/40_gpio_bank.md R131, R139, R140, spec/60_exceptions.md R290): the
fields `CONFIGURE` writes, the levels `READ` returns, and each register access taken by itself.
-/

namespace Sys2Proof.Machine

variable {c : Config} {d d' : Device} {s : State}

/-! ## `CONFIGURE` and `READ` -/

/-- Settles O12, by the bits that lie in the fields of the set and those that do not. -/
theorem configureWritesOnlyItsFields : Obligations.ConfigureWritesOnlyItsFields := by
  unfold Obligations.ConfigureWritesOnlyItsFields
  intro pins ps dir s t hps h
  obtain ⟨-, h⟩ := whenActive_next h
  rw [hps] at h
  cases h
  refine ⟨fun p hp => fieldOf_configurePins_of_mem hp dir (beginOp .configure s),
    fun p hp => fieldOf_configurePins_of_not_mem hp dir (beginOp .configure s), fun k i hout => ?_⟩
  refine getLsbD_configurePins_of_outside (fun p hp hf => ?_) dir (beginOp .configure s)
  obtain ⟨hreg, hbits⟩ := (inField_iff p k i).1 hf
  exact hout p hp hreg hbits

/-- `READ` returns the level of its pin (40 R139). -/
theorem exec_read_level (hrun : CanRun s) (p : Pin) :
    ∃ u, exec (.read p.val) s = .next u ∧ u.result = .level (level s.cfg s.dev (extNow s) (Config.freeLevel s.draws) p) :=
  ⟨_, readEffect p s hrun, congrArg Result.level (getLsbD_levelNow s p)⟩

/-- Settles O15: the level of a pin by its function. -/
theorem readReturnsLevel : Obligations.ReadReturnsLevel := by
  unfold Obligations.ReadReturnsLevel
  intro p s t h
  obtain ⟨hrun, -⟩ := whenActive_next h
  obtain ⟨u, hu, hlevel⟩ := exec_read_level hrun p
  rw [hu] at h
  cases h
  exact hlevel

/-! ## `SET`, then `READ` or `SET` -/

theorem pinFunction_of_fsel_eq (h : d'.fsel = d.fsel) (c : Config) (p : Pin) : pinFunction c d' p = pinFunction c d p := by
  rw [pinFunction, pinFunction, fieldOf, fieldOf, h]

/-- A second write of the same pin's bit changes nothing (40 R140). -/
theorem setDevice_setDevice (p : Pin) (lvl : Bool) (d : Device) :
    let w := deviceWrite (if lvl then .set (bankOf p) else .clr (bankOf p)) (pinWord p)
    w (w d) = w d := by
  cases lvl <;> simp [deviceWrite, BitVec.or_assoc, BitVec.and_assoc]

/-- Settles O16: the latch bit of an output is its level, and the second write finds the bit as it writes it. -/
theorem setThenReadReturnsLevel : Obligations.SetThenReadReturnsLevel := by
  unfold Obligations.SetThenReadReturnsLevel
  intro p v s t h
  obtain ⟨⟨hlife, -⟩, h⟩ := whenActive_next h
  rw [pinOf?_val] at h
  cases h
  have hrun : CanRun (finish (setPin p v (beginOp .set s))) := ⟨hlife, rfl⟩
  refine ⟨fun hout => ?_, _, runPinOp_of_canRun hrun .set p _, setDevice_setDevice p v s.dev⟩
  obtain ⟨u, hu, hlevel⟩ := exec_read_level hrun p
  refine ⟨u, hu, hlevel.trans (congrArg Result.level ?_)⟩
  rw [level, finish_cfg, finish_dev, setPin_cfg, beginOp_cfg, setPin_dev, pinFunction_of_fsel_eq (setDevice_fsel p v _), beginOp_dev, hout]
  exact (latchBit_setDevice p p v s.dev).trans (if_pos rfl)

/-! ## The rows that present one access -/

theorem exec_of_fselAccess {r : (Access → Instr) × Fin 6} (hr : r ∈ fselAccessRows) (a : Access) (s : State) :
    exec (r.1 a) s = execAccess (.fsel r.2) a s := by
  simp only [fselAccessRows, List.mem_cons, List.not_mem_nil, or_false] at hr
  obtain rfl | rfl | rfl | rfl | rfl | rfl := hr <;> rfl

theorem exec_of_setAccess {r : (Access → Instr) × Fin 2} (hr : r ∈ setAccessRows) (a : Access) (s : State) :
    exec (r.1 a) s = execAccess (.set r.2) a s := by
  simp only [setAccessRows, List.mem_cons, List.not_mem_nil, or_false] at hr
  obtain rfl | rfl := hr <;> rfl

theorem exec_of_clrAccess {r : (Access → Instr) × Fin 2} (hr : r ∈ clrAccessRows) (a : Access) (s : State) :
    exec (r.1 a) s = execAccess (.clr r.2) a s := by
  simp only [clrAccessRows, List.mem_cons, List.not_mem_nil, or_false] at hr
  obtain rfl | rfl := hr <;> rfl

theorem exec_of_levAccess {r : (Access → Instr) × Fin 2} (hr : r ∈ levAccessRows) (a : Access) (s : State) :
    exec (r.1 a) s = execAccess (.lev r.2) a s := by
  simp only [levAccessRows, List.mem_cons, List.not_mem_nil, or_false] at hr
  obtain rfl | rfl := hr <;> rfl

theorem execAccess_of_canRun (h : CanRun s) (r : Reg) (a : Access) : execAccess r a s = accessReg r a s := whenActive_of_canRun h _

/-- A write that makes E fall adds its sample (45 R270). -/
theorem regWrite_eq (r : Reg) (v : Reg32) (s : State) :
    regWrite r v s = { s with dev := deviceWrite r v s.dev, trace := s.trace ++ [.wr (offsetOf s.cfg r) v], draws := s.draws + 1
                              latched := if fallingE s.cfg s.dev (deviceWrite r v s.dev) then
                                s.latched ++ [latchOf s.cfg (deviceWrite r v s.dev) (Config.freeLevel s.draws)] else s.latched } := by
  simp only [regWrite, latchesOfWrite, emit]
  split <;> simp

theorem regWrite_eq_of_not_falling {r : Reg} {v : Reg32} (h : fallingE s.cfg s.dev (deviceWrite r v s.dev) = false) :
    regWrite r v s =
      { s with dev := deviceWrite r v s.dev, trace := s.trace ++ [.wr (offsetOf s.cfg r) v], draws := s.draws + 1 } := by
  rw [regWrite_eq, h, if_neg Bool.false_ne_true]

/-- The pad of a pin whose new field is the output code is its latch bit from the write on (10 R25, 45 R274). -/
theorem pad_set_fsel (c : Config) (d : Device) {p : Pin} {k : Fin 6} {v : Reg32} (hk : fselReg p = k)
    (hout : functionOf c (v.extractLsb' (fselShift p) 3) = .output) :
    pad c { d with fsel := d.fsel.set k v } p = some (latchBit d p) := by
  subst hk
  have hfun : pinFunction c { d with fsel := d.fsel.set (fselReg p) v } p = .output := by
    rw [pinFunction, fieldOf]
    simpa using hout
  rw [pad, hfun]
  rfl

/-- Settles O17: a function-select register is read and stored whole, and its write makes no E fall. -/
theorem functionSelectAccess : Obligations.FunctionSelectAccess := by
  unfold Obligations.FunctionSelectAccess
  intro s v hrun r hr
  refine ⟨?_, ?_, fun p hk hout => pad_set_fsel s.cfg s.dev hk hout⟩
  · rw [exec_of_fselAccess hr, execAccess_of_canRun hrun]
    rfl
  · rw [exec_of_fselAccess hr, execAccess_of_canRun hrun, accessReg, regWrite_eq_of_not_falling (fallingE_deviceWrite_fsel _ _ _ _)]
    rfl

/-! ## Writes to the output latch -/

theorem latchBit_deviceWrite_set (j : Fin 2) (v : Reg32) (d : Device) (p : Pin) :
    latchBit (deviceWrite (.set j) v d) p = (latchBit d p || (decide (p.val / 32 = j.val) && v.getLsbD (p.val % 32))) := by
  by_cases hj : bankOf p = j
  · subst hj
    have hbank : p.val / 32 = (bankOf p).val := rfl
    have hmod : p.val % 32 = bitOf p := rfl
    simp [latchBit, deviceWrite, getLsbD_pinMask_bankOf, hbank, hmod]
  · have hj' : ¬p.val / 32 = j.val := fun h => hj (Fin.ext h)
    have hv : ¬j.val = (bankOf p).val := fun h => hj' h.symm
    simp [latchBit, deviceWrite, hj', hv]

theorem latchBit_deviceWrite_clr (j : Fin 2) (v : Reg32) (d : Device) (p : Pin) :
    latchBit (deviceWrite (.clr j) v d) p = (latchBit d p && !(decide (p.val / 32 = j.val) && v.getLsbD (p.val % 32))) := by
  have hbit : bitOf p < 32 := Nat.mod_lt _ (by decide)
  by_cases hj : bankOf p = j
  · subst hj
    have hbank : p.val / 32 = (bankOf p).val := rfl
    have hmod : p.val % 32 = bitOf p := rfl
    simp [latchBit, deviceWrite, hbank, hmod, hbit]
  · have hj' : ¬p.val / 32 = j.val := fun h => hj (Fin.ext h)
    have hv : ¬j.val = (bankOf p).val := fun h => hj' h.symm
    simp [latchBit, deviceWrite, hj', hv]

/-- A write to the latch changes the level of a pad, and drives no other pad (10 R25). -/
theorem pad_of_fsel_eq (h : d'.fsel = d.fsel) (c : Config) (p : Pin) : pad c d' p = (pad c d p).map fun _ => latchBit d' p := by
  rw [pad, pad, pinFunction_of_fsel_eq h]
  cases pinFunction c d p <;> rfl

/-- A write that clears no latch bit of E makes no E fall. -/
theorem not_fallingE_of_latchBit (h : d'.fsel = d.fsel) (hbit : latchBit d c.pins.e = true → latchBit d' c.pins.e = true) :
    fallingE c d d' = false := by
  rw [← Bool.not_eq_true, fallingE, Bool.and_eq_true, beq_iff_eq, beq_iff_eq, pad_of_fsel_eq h]
  rintro ⟨hhigh, hlow⟩
  rw [hhigh, Option.map_some, hbit (latchBit_of_pad hhigh)] at hlow
  cases hlow

theorem deviceWrite_set_pinless (j : Fin 2) (v : Reg32) (d : Device) :
    (deviceWrite (.set j) v d).outl[1] &&& ~~~(pinMask 1) = d.outl[1] &&& ~~~(pinMask 1) := by
  have hword (x y m : Reg32) : (x ||| (y &&& m)) &&& ~~~m = x &&& ~~~m := by
    refine BitVec.eq_of_getLsbD_eq fun i hi => ?_
    simp only [BitVec.getLsbD_and, BitVec.getLsbD_or, BitVec.getLsbD_not]
    grind
  match j with
  | 0 => simp [deviceWrite]
  | 1 => simpa [deviceWrite] using hword _ _ _

/-- Settles O18: a set write raises bits that belong to pins and clears none. -/
theorem setRegisterWrite : Obligations.SetRegisterWrite := by
  unfold Obligations.SetRegisterWrite
  intro s v hrun r hr
  have hfall : fallingE s.cfg s.dev (deviceWrite (.set r.2) v s.dev) = false :=
    not_fallingE_of_latchBit rfl fun h => by rw [latchBit_deviceWrite_set, h, Bool.true_or]
  refine ⟨_, (exec_of_setAccess hr _ _).trans (execAccess_of_canRun hrun _ _), latchBit_deviceWrite_set r.2 v s.dev,
    deviceWrite_set_pinless r.2 v s.dev, ?_⟩
  rw [regWrite_eq_of_not_falling hfall]
  rfl

/-- A clear write makes E fall exactly where it clears the bit of a driven, high E (45 R270). -/
theorem fallingE_deviceWrite_clr (c : Config) (j : Fin 2) (v : Reg32) (d : Device) :
    fallingE c d (deviceWrite (.clr j) v d) = true ↔
      pad c d c.pins.e = some true ∧ bankOf c.pins.e = j ∧ v.getLsbD (c.pins.e.val % 32) = true := by
  rw [fallingE, Bool.and_eq_true, beq_iff_eq, beq_iff_eq, pad_of_fsel_eq (d' := deviceWrite (.clr j) v d) (d := d) rfl]
  refine and_congr_right fun hhigh => ?_
  rw [hhigh, Option.map_some, Option.some_inj, latchBit_deviceWrite_clr, latchBit_of_pad hhigh]
  simp [bankOf, Fin.ext_iff]

/-- Settles O19: a clear write clears the bits of its word, and the sample is there where E falls. -/
theorem clearRegisterWrite : Obligations.ClearRegisterWrite := by
  unfold Obligations.ClearRegisterWrite
  intro s v hrun r hr
  rw [exec_of_clrAccess hr, execAccess_of_canRun hrun, accessReg, regWrite_eq,
    if_congr (fallingE_deviceWrite_clr s.cfg r.2 v s.dev) rfl rfl]
  rfl

/-! ## Level reads, and accesses outside the table -/

/-- A bit of a level word that belongs to no pin is free (20 R68, log 6). -/
theorem getLsbD_levelNow_of_no_pin (s : State) (j : Fin 2) {i : Nat} (hi : i < 32) (hp : 54 ≤ 32 * j.val + i) :
    (levelNow s j).getLsbD i = (Config.freeLevel s.draws).getLsbD (32 * j.val + i) := by
  rw [levelNow, levelWord, getLsbD_bitsOf _ hi, levelBit, pinOf?_eq_none hp]

/-- Settles O20: the word read is that of the levels drawn. -/
theorem levelRegisterRead : Obligations.LevelRegisterRead := by
  unfold Obligations.LevelRegisterRead
  intro s hrun r hr
  refine ⟨levelNow s r.2, (exec_of_levAccess hr _ _).trans (execAccess_of_canRun hrun _ _), fun p hp => ?_,
    fun i hi hp => getLsbD_levelNow_of_no_pin s r.2 hi hp⟩
  rw [← hp]
  exact getLsbD_levelNow s p

theorem regAt_eq_none {off : Nat} (h : off ∉ c.offsets) : regAt c off = none := by
  rw [regAt, List.find?_eq_none]
  intro r hr heq
  rw [offsets_eq_map] at h
  exact h (List.mem_map.2 ⟨r, hr, beq_iff_eq.1 heq⟩)

/-- An access to a register of the table is taken at the register (30 R95). -/
theorem memAccess_offsetOf (h : s.cfg.valid = true) (r : Reg) (a : Access) : memAccess (offsetOf s.cfg r) 4 a s = accessReg r a s := by
  rw [memAccess, if_pos rfl, regAt_offsetOf _ h]

/-- Settles O21: no register is at another offset or width or in another direction, and an operation is refused by its state or its
operands. -/
theorem badAccessRefused : Obligations.BadAccessRefused := by
  unfold Obligations.BadAccessRefused
  refine ⟨fun s off width a h => ?_, fun s j v hvalid => ?_, fun s v hrun => ⟨fun r hr => ?_, fun r hr => ?_⟩, fun i s hi h => ?_⟩
  · rw [memAccess]
    split
    · next hwidth =>
      obtain hne | hoff := h
      · exact absurd hwidth hne
      · rw [regAt_eq_none hoff]
    · rfl
  · exact ⟨memAccess_offsetOf hvalid (.set j) .read, memAccess_offsetOf hvalid (.clr j) .read,
      memAccess_offsetOf hvalid (.lev j) (.write v)⟩
  · obtain hr | hr := List.mem_append.1 hr
    · exact (exec_of_setAccess hr _ _).trans (execAccess_of_canRun hrun _ _)
    · exact (exec_of_clrAccess hr _ _).trans (execAccess_of_canRun hrun _ _)
  · exact (exec_of_levAccess hr _ _).trans (execAccess_of_canRun hrun _ _)
  · obtain (hr | hr | hr) | ⟨hr, -⟩ | ⟨hr, -⟩ := exec_refused hi h <;> cases hr

end Sys2Proof.Machine
end

section
/-!
PROOFS. What no instruction touches: the latch bits and the fields of pins it does not name (spec/43_facade.md R227, spec/10_state.md R37), and
`READY` (10 R31).
-/

namespace Sys2Proof.Machine

variable {c : Config} {d d' : Device} {ps : List Pin} {s t : State}

/-! ## Devices that differ in the latch bits of few pins -/

/-- Of the output latch only the bits of the listed pins may differ. -/
structure LatchKept (ps : List Pin) (d d' : Device) : Prop where
  latch {p : Pin} : p ∉ ps → latchBit d' p = latchBit d p
  pinless (j : Fin 2) : d'.outl[j] &&& ~~~(pinMask j) = d.outl[j] &&& ~~~(pinMask j)

theorem LatchKept.of_outl_eq (h : d'.outl = d.outl) : LatchKept ps d d' :=
  ⟨fun _ => by rw [latchBit, latchBit, h], fun j => by rw [h]⟩

theorem LatchKept.of_writesOnly {es : List Event} (h : WritesOnly c ps es) (d : Device) : LatchKept ps d (replay c d es) :=
  ⟨fun hp => h.latch d hp, h.pinless d⟩

theorem LatchKept.trans {d'' : Device} (h : LatchKept ps d d') (k : LatchKept ps d' d'') : LatchKept ps d d'' :=
  ⟨fun hp => (k.latch hp).trans (h.latch hp), fun j => (k.pinless j).trans (h.pinless j)⟩

theorem readPinResult_dev (p : Pin) (s : State) : (readPinResult p s).dev = s.dev := by
  rw [readPinResult, readPin_eq]

theorem readReqBody_dev (s : State) : (readReqBody s).dev = s.dev := by
  rw [readReqBody, readPin_eq, dropResponse_dev]
  rfl

theorem setPin_latchKept (p : Pin) (lvl : Bool) (s : State) : LatchKept [p] s.dev (setPin p lvl s).dev :=
  ⟨fun hq => (latchBit_setDevice p _ lvl s.dev).trans (if_neg fun h => hq (List.mem_singleton.2 h)), setDevice_pinless p lvl s.dev⟩

theorem transmitByte_latchKept (hc : s.cfg = c) (h : c.valid = true) (b : Byte) (m : Mode) :
    LatchKept (transferPins c.pins) s.dev (transmitByte b m s).dev := by
  rw [(transmitByte_accounted b m s hc h).dev]
  exact .of_writesOnly (transmitEvents_writesOnly h b m) s.dev

theorem initBody_latchKept (hc : s.cfg = c) (h : c.valid = true) : LatchKept (transferPins c.pins) s.dev (initBody s).dev := by
  rw [(initBody_accounted h s hc).dev]
  exact .of_writesOnly (initEvents_writesOnly h) s.dev

theorem textBody_latchKept (hc : s.cfg = c) (h : c.valid = true) {text : List Byte} (hlen : text.length ≤ maxText) :
    LatchKept (transferPins c.pins) s.dev (textBody text s).dev := by
  rw [(textBody_accounted h hlen s hc).dev]
  exact .of_writesOnly (transmits_writesOnly h .character text) s.dev

theorem renderBody_latchKept (hc : s.cfg = c) (h : c.valid = true) {text : List Byte} (hlen : text.length ≤ maxText) :
    LatchKept (transferPins c.pins) s.dev (renderBody text s).dev := by
  rw [(renderBody_accounted_display h hlen s hc).dev]
  exact (LatchKept.of_outl_eq (configureAllBody_outl s)).trans (.of_writesOnly (displayEvents_writesOnly h text) _)

theorem writeReqBody_latchKept (hc : s.cfg = c) (h : c.valid = true) (bytes : List Byte) :
    LatchKept (transferPins c.pins) s.dev (writeReqBody bytes s).dev := by
  cases htext : acceptedText bytes with
  | none =>
    rw [writeReqBody_of_rejected htext]
    exact .of_outl_eq rfl
  | some text =>
    rw [writeReqBody_of_accepted htext]
    exact renderBody_latchKept (s := storeRequest bytes s) hc h (acceptedText_length htext)

/-! ## The device an instruction leaves -/

section
variable {op : OpName}

theorem runOp_dev {body : State → State} (h : runOp op body s = .next t) : t.dev = (body (beginOp op s)).dev := by
  obtain ⟨-, h⟩ := whenActive_next h
  cases h
  rfl

theorem runPinOp_dev {p : Nat} {body : Pin → State → State} (h : runPinOp op p body s = .next t) :
    ∃ q, pinOf? p = some q ∧ t.dev = (body q (beginOp op s)).dev := by
  obtain ⟨-, h⟩ := whenActive_next h
  split at h <;> cases h
  next q hq => exact ⟨q, hq, rfl⟩

theorem runTextOp_dev {x : List Byte} {n : Nat} {body : List Byte → State → State} (h : runTextOp op x n body s = .next t) :
    ∃ text, text.length ≤ maxText ∧ t.dev = (body text (beginOp op s)).dev := by
  obtain ⟨-, h⟩ := whenActive_next h
  split at h <;> cases h
  next text htext => exact ⟨text, textOf?_length htext, rfl⟩

theorem execConfigure_dev {pins : List Nat} {dir : PinDirection} (h : execConfigure pins dir s = .next t) :
    ∃ ps, pinsOf? pins = some ps ∧ t.dev = (configurePins ps dir (beginOp .configure s)).dev := by
  obtain ⟨-, h⟩ := whenActive_next h
  split at h <;> cases h
  next ps hps => exact ⟨ps, hps, rfl⟩

end

/-- A row that names fields and is no operation leaves the device (log 13). -/
theorem evaluate_dev {r : Result} (h : evaluate r s = .next t) : t.dev = s.dev := by
  obtain ⟨-, h⟩ := whenActive_next h
  cases h
  rfl

theorem execFselPlace_dev {p : Nat} {code : BitVec 3} (h : execFselPlace p code s = .next t) : t.dev = s.dev := by
  unfold execFselPlace at h
  split at h
  · exact evaluate_dev h
  · cases (whenActive_next h).2

theorem execPinBit_dev {p : Nat} (h : execPinBit p s = .next t) : t.dev = s.dev := by
  unfold execPinBit at h
  split at h
  · exact evaluate_dev h
  · cases (whenActive_next h).2

theorem execLatchSample_dev (h : execLatchSample s = .next t) : t.dev = s.dev := by
  obtain ⟨-, h⟩ := whenActive_next h
  cases h
  rfl

/-- A register access leaves the device of its write, or as it was (20 R66 to R69). -/
theorem execAccess_dev {r : Reg} {a : Access} (h : execAccess r a s = .next t) :
    t.dev = match a with
      | .read => s.dev
      | .write v => deviceWrite r v s.dev := by
  obtain ⟨-, h⟩ := whenActive_next h
  cases r <;> cases a <;> cases h <;> rfl

/-! ## The latch bits an instruction writes -/

/-- The pins whose latch bits an instruction that is no bare register write may write. -/
def latchPins (c : Config) : Instr → List Pin
  | .set p _ => (pinOf? p).toList
  | .ledSet _ => [c.pins.led]
  | .transmit _ _ | .writeCommand _ | .writeChar _ | .init | .writeText _ _ | .render _ _ | .writeReq _ | .lcdCommand _ | .lcdChar _
  | .init0 | .init1 | .init2 | .init3 | .init4 | .init5 | .notSent28 => transferPins c.pins
  | .configure _ _ | .read _ | .configureAll | .buttonRead | .activate _ | .deactivate | .readReq | .gpfsel0 _ | .gpfsel1 _ | .gpfsel2 _
  | .gpfsel3 _ | .gpfsel4 _ | .gpfsel5 _ | .gpset0 _ | .gpset1 _ | .gpclr0 _ | .gpclr1 _ | .gplev0 _ | .gplev1 _ | .fselInput
  | .fselOutput | .fselAlt2 | .fselAlt3 | .fselAlt4 | .fselAlt5 | .fselAlt6 | .fselAlt7 | .fselPlace _ _ | .pinBit _ | .latchSample
  | .wireReadResp _ | .wireWriteReq _ => []

/-- An instruction that is no bare write to a set or clear register writes the latch bits of its pins only. -/
theorem exec_latchKept {i : Instr} (hvalid : s.cfg.valid = true) (h : exec i s = .next t)
    (hacc : ∀ v : Reg32, ∀ r ∈ setAccessRows ++ clrAccessRows, i ≠ r.1 (.write v)) : LatchKept (latchPins s.cfg i) s.dev t.dev := by
  cases i with
  | activate ok =>
    obtain rfl := activate_next h
    cases ok
    · exact .of_outl_eq rfl
    · exact .of_outl_eq (configureAllBody_outl (activating s))
  | deactivate =>
    obtain rfl := deactivate_next h
    exact .of_outl_eq rfl
  | configure pins dir =>
    obtain ⟨ps, -, hdev⟩ := execConfigure_dev h
    rw [hdev]
    exact .of_outl_eq (configurePins_outl ps dir (beginOp .configure s))
  | set p lvl =>
    obtain ⟨q, hq, hdev⟩ := runPinOp_dev h
    rw [hdev, latchPins, hq]
    exact setPin_latchKept q lvl (beginOp .set s)
  | read =>
    obtain ⟨q, -, hdev⟩ := runPinOp_dev h
    rw [hdev, readPinResult_dev]
    exact .of_outl_eq rfl
  | ledSet lvl =>
    rw [runOp_dev h]
    exact setPin_latchKept s.cfg.pins.led lvl (beginOp .ledSet s)
  | configureAll =>
    rw [runOp_dev h]
    exact .of_outl_eq (configureAllBody_outl (beginOp .configureAll s))
  | buttonRead =>
    rw [runOp_dev h, readButton, readPinResult_dev]
    exact .of_outl_eq rfl
  | readReq =>
    rw [runOp_dev h, readReqBody_dev]
    exact .of_outl_eq rfl
  | transmit | writeCommand | writeChar | lcdCommand | lcdChar | init0 | init1 | init2 | init3 | init4 | init5 | notSent28 =>
    rw [runOp_dev h]
    exact transmitByte_latchKept (s := beginOp _ s) rfl hvalid _ _
  | init =>
    rw [runOp_dev h]
    exact initBody_latchKept (s := beginOp .init s) rfl hvalid
  | writeText =>
    obtain ⟨text, hlen, hdev⟩ := runTextOp_dev h
    rw [hdev]
    exact textBody_latchKept (s := beginOp .writeText s) rfl hvalid hlen
  | render =>
    obtain ⟨text, hlen, hdev⟩ := runTextOp_dev h
    rw [hdev]
    exact renderBody_latchKept (s := beginOp .render s) rfl hvalid hlen
  | writeReq bytes =>
    rw [runOp_dev (body := fun u => dropRequest (writeReqBody bytes u)) h, dropRequest_dev]
    exact writeReqBody_latchKept (s := beginOp .writeReq s) rfl hvalid bytes
  | gpfsel0 a | gpfsel1 a | gpfsel2 a | gpfsel3 a | gpfsel4 a | gpfsel5 a | gplev0 a | gplev1 a =>
    rw [execAccess_dev h]
    cases a <;> exact .of_outl_eq rfl
  | gpset0 a | gpset1 a | gpclr0 a | gpclr1 a =>
    cases a with
    | read =>
      rw [execAccess_dev h]
      exact .of_outl_eq rfl
    | write v => simp [setAccessRows, clrAccessRows] at hacc
  | fselPlace =>
    rw [execFselPlace_dev h]
    exact .of_outl_eq rfl
  | pinBit =>
    rw [execPinBit_dev h]
    exact .of_outl_eq rfl
  | latchSample =>
    rw [execLatchSample_dev h]
    exact .of_outl_eq rfl
  | fselInput | fselOutput | fselAlt2 | fselAlt3 | fselAlt4 | fselAlt5 | fselAlt6 | fselAlt7 | wireReadResp | wireWriteReq =>
    rw [evaluate_dev h]
    exact .of_outl_eq rfl

/-! ## The fields an instruction writes -/

/-- The pins whose function-select fields an instruction that is no bare register write may write. -/
def fieldPins (c : Config) : Instr → List Pin
  | .configure pins _ => (pinsOf? pins).getD []
  | .configureAll | .render _ _ | .writeReq _ | .activate _ => c.pins.all
  | .set _ _ | .read _ | .transmit _ _ | .writeCommand _ | .writeChar _ | .init | .writeText _ _ | .ledSet _ | .buttonRead | .deactivate
  | .readReq | .lcdCommand _ | .lcdChar _ | .init0 | .init1 | .init2 | .init3 | .init4 | .init5 | .notSent28 | .gpfsel0 _ | .gpfsel1 _
  | .gpfsel2 _ | .gpfsel3 _ | .gpfsel4 _ | .gpfsel5 _ | .gpset0 _ | .gpset1 _ | .gpclr0 _ | .gpclr1 _ | .gplev0 _ | .gplev1 _
  | .fselInput | .fselOutput | .fselAlt2 | .fselAlt3 | .fselAlt4 | .fselAlt5 | .fselAlt6 | .fselAlt7 | .fselPlace _ _ | .pinBit _
  | .latchSample | .wireReadResp _ | .wireWriteReq _ => []

theorem fieldOf_of_fsel_eq (h : d'.fsel = d.fsel) (p : Pin) : fieldOf d' p = fieldOf d p := by
  rw [fieldOf, fieldOf, h]

theorem fieldOf_configureAllBody_of_not_mem {p : Pin} (hp : p ∉ s.cfg.pins.all) : fieldOf (configureAllBody s).dev p = fieldOf s.dev p := by
  rw [PinMap.all, List.mem_append, not_or] at hp
  rw [configureAllBody, fieldOf_configurePins_of_not_mem hp.2, fieldOf_configurePins_of_not_mem hp.1]

theorem transmitByte_fsel (h : s.cfg.valid = true) (b : Byte) (m : Mode) : (transmitByte b m s).dev.fsel = s.dev.fsel := by
  rw [(transmitByte_accounted b m s rfl h).dev]
  exact (transmitEvents_writesOnly h b m).fsel s.dev

theorem initBody_fsel (h : s.cfg.valid = true) : (initBody s).dev.fsel = s.dev.fsel := by
  rw [(initBody_accounted h s rfl).dev]
  exact (initEvents_writesOnly h).fsel s.dev

theorem textBody_fsel (h : s.cfg.valid = true) {text : List Byte} (hlen : text.length ≤ maxText) :
    (textBody text s).dev.fsel = s.dev.fsel := by
  rw [(textBody_accounted h hlen s rfl).dev]
  exact (transmits_writesOnly h .character text).fsel s.dev

/-- `RENDER` writes the function selects in its configuration only (43 R224). -/
theorem renderBody_fsel (h : s.cfg.valid = true) {text : List Byte} (hlen : text.length ≤ maxText) :
    (renderBody text s).dev.fsel = (configureAllBody s).dev.fsel := by
  rw [(renderBody_accounted_display h hlen s rfl).dev]
  exact (displayEvents_writesOnly h text).fsel _

theorem fieldOf_renderBody_of_not_mem (h : s.cfg.valid = true) {text : List Byte} (hlen : text.length ≤ maxText) {p : Pin}
    (hp : p ∉ s.cfg.pins.all) : fieldOf (renderBody text s).dev p = fieldOf s.dev p :=
  (fieldOf_of_fsel_eq (renderBody_fsel h hlen) p).trans (fieldOf_configureAllBody_of_not_mem hp)

theorem fieldOf_writeReqBody_of_not_mem (h : s.cfg.valid = true) (bytes : List Byte) {p : Pin} (hp : p ∉ s.cfg.pins.all) :
    fieldOf (writeReqBody bytes s).dev p = fieldOf s.dev p := by
  cases htext : acceptedText bytes with
  | none =>
    rw [writeReqBody_of_rejected htext]
    rfl
  | some text =>
    rw [writeReqBody_of_accepted htext]
    exact fieldOf_renderBody_of_not_mem (s := storeRequest bytes s) h (acceptedText_length htext) hp

/-- An instruction that is no bare write to a function-select register writes the fields of its pins only. -/
theorem exec_fieldOf {i : Instr} (hvalid : s.cfg.valid = true) (h : exec i s = .next t)
    (hacc : ∀ v : Reg32, ∀ r ∈ fselAccessRows, i ≠ r.1 (.write v)) {p : Pin} (hp : p ∉ fieldPins s.cfg i) :
    fieldOf t.dev p = fieldOf s.dev p := by
  cases i with
  | activate ok =>
    obtain rfl := activate_next h
    cases ok
    · rfl
    · exact fieldOf_configureAllBody_of_not_mem (s := activating s) hp
  | deactivate =>
    obtain rfl := deactivate_next h
    rfl
  | configure pins dir =>
    obtain ⟨ps, hps, hdev⟩ := execConfigure_dev h
    rw [fieldPins, hps] at hp
    rw [hdev]
    exact fieldOf_configurePins_of_not_mem hp dir (beginOp .configure s)
  | set p lvl =>
    obtain ⟨q, -, hdev⟩ := runPinOp_dev h
    rw [hdev]
    exact fieldOf_of_fsel_eq (setDevice_fsel q lvl s.dev) _
  | read =>
    obtain ⟨q, -, hdev⟩ := runPinOp_dev h
    rw [hdev, readPinResult_dev]
    rfl
  | ledSet lvl =>
    rw [runOp_dev h]
    exact fieldOf_of_fsel_eq (setDevice_fsel s.cfg.pins.led lvl s.dev) _
  | configureAll =>
    rw [runOp_dev h]
    exact fieldOf_configureAllBody_of_not_mem (s := beginOp .configureAll s) hp
  | buttonRead =>
    rw [runOp_dev h, readButton, readPinResult_dev]
    rfl
  | readReq =>
    rw [runOp_dev h, readReqBody_dev]
    rfl
  | transmit | writeCommand | writeChar | lcdCommand | lcdChar | init0 | init1 | init2 | init3 | init4 | init5 | notSent28 =>
    rw [runOp_dev h]
    exact fieldOf_of_fsel_eq (transmitByte_fsel (s := beginOp _ s) hvalid _ _) p
  | init =>
    rw [runOp_dev h]
    exact fieldOf_of_fsel_eq (initBody_fsel (s := beginOp .init s) hvalid) p
  | writeText =>
    obtain ⟨text, hlen, hdev⟩ := runTextOp_dev h
    rw [hdev]
    exact fieldOf_of_fsel_eq (textBody_fsel (s := beginOp .writeText s) hvalid hlen) p
  | render =>
    obtain ⟨text, hlen, hdev⟩ := runTextOp_dev h
    rw [hdev]
    exact fieldOf_renderBody_of_not_mem (s := beginOp .render s) hvalid hlen hp
  | writeReq bytes =>
    rw [runOp_dev (body := fun u => dropRequest (writeReqBody bytes u)) h, dropRequest_dev]
    exact fieldOf_writeReqBody_of_not_mem (s := beginOp .writeReq s) hvalid bytes hp
  | gpfsel0 a | gpfsel1 a | gpfsel2 a | gpfsel3 a | gpfsel4 a | gpfsel5 a =>
    cases a with
    | read => rw [execAccess_dev h]
    | write v => simp [fselAccessRows] at hacc
  | gpset0 a | gpset1 a | gpclr0 a | gpclr1 a | gplev0 a | gplev1 a =>
    rw [execAccess_dev h]
    cases a <;> rfl
  | fselPlace => rw [execFselPlace_dev h]
  | pinBit => rw [execPinBit_dev h]
  | latchSample => rw [execLatchSample_dev h]
  | fselInput | fselOutput | fselAlt2 | fselAlt3 | fselAlt4 | fselAlt5 | fselAlt6 | fselAlt7 | wireReadResp | wireWriteReq =>
    rw [evaluate_dev h]

/-! ## The statements -/

/-- An instruction writes latch bits of the pin it sets, of the LED, or of the pins of the transfers. -/
theorem mem_latchPins {i : Instr} {p : Pin} (hp : p ∈ latchPins c i) :
    (∃ lvl, i = .set p.val lvl) ∨ p = c.pins.led ∨ p ∈ transferPins c.pins := by
  cases i with
  | set q lvl =>
    rw [latchPins, Option.mem_toList, pinOf?, Option.dite_none_right_eq_some] at hp
    obtain ⟨hq, hval⟩ := hp
    cases hval
    exact .inl ⟨lvl, rfl⟩
  | ledSet => exact .inr (.inl (List.mem_singleton.1 hp))
  | transmit | writeCommand | writeChar | init | writeText | render | writeReq | lcdCommand | lcdChar | init0 | init1 | init2 | init3
  | init4 | init5 | notSent28 => exact .inr (.inr hp)
  | _ => cases hp

theorem mem_fieldPins {i : Instr} {p : Pin} (hp : p ∈ fieldPins c i) : (∃ pins dir, i = .configure pins dir) ∨ p ∈ c.pins.all := by
  cases i with
  | configure pins dir => exact .inl ⟨pins, dir, rfl⟩
  | configureAll | render | writeReq | activate => exact .inr hp
  | _ => cases hp

theorem transferPins_subset_all (m : PinMap) : transferPins m ⊆ m.all := by
  simp [transferPins, dataLines, PinMap.all, PinMap.outputs]

theorem led_mem_all (m : PinMap) : m.led ∈ m.all := by simp [PinMap.all, PinMap.outputs]

theorem isAccess_of_latchRow {r : (Access → Instr) × Fin 2} (hr : r ∈ setAccessRows ++ clrAccessRows) (a : Access) :
    isAccess (r.1 a) = true := by
  simp only [setAccessRows, clrAccessRows, List.cons_append, List.nil_append, List.mem_cons, List.not_mem_nil, or_false] at hr
  obtain rfl | rfl | rfl | rfl := hr <;> rfl

/-- Settles O35: the four write the latch bits of the pins of the transfers, and two of them no field. -/
theorem sequencesKeepOtherLatches : Obligations.SequencesKeepOtherLatches := by
  unfold Obligations.SequencesKeepOtherLatches
  intro i s t hvalid hi h
  have hpins : latchPins s.cfg i = transferPins s.cfg.pins := by
    obtain rfl | ⟨_, _, rfl⟩ | ⟨_, _, rfl⟩ | ⟨_, rfl⟩ := hi <;> rfl
  have hop : isAccess i = false := by
    obtain rfl | ⟨_, _, rfl⟩ | ⟨_, _, rfl⟩ | ⟨_, rfl⟩ := hi <;> rfl
  have hkept := exec_latchKept hvalid h fun v r hr hrow => by
    rw [hrow, isAccess_of_latchRow hr] at hop
    cases hop
  rw [hpins] at hkept
  refine ⟨fun p hp => hkept.latch hp, hkept.pinless 1, fun hfsel => ?_⟩
  obtain rfl | ⟨_, _, rfl⟩ := hfsel
  · rw [runOp_dev h]
    exact initBody_fsel (s := beginOp .init s) hvalid
  · obtain ⟨text, hlen, hdev⟩ := runTextOp_dev h
    rw [hdev]
    exact textBody_fsel (s := beginOp .writeText s) hvalid hlen

theorem rw_ne_led (h : c.valid = true) : c.pins.rw ≠ c.pins.led := by
  have hpins := pins_nodup h
  simp only [PinMap.all, PinMap.outputs, List.cons_append, List.nil_append, List.nodup_cons, List.mem_cons, not_or] at hpins
  tauto

/-- Settles O55: RW is neither the LED nor a pin of the transfers. -/
theorem rwLatchNeverWritten : Obligations.RwLatchNeverWritten := by
  unfold Obligations.RwLatchNeverWritten
  intro i s t hvalid h hset hacc
  refine (exec_latchKept hvalid h hacc).latch fun hp => ?_
  obtain ⟨lvl, hi⟩ | hled | htransfer := mem_latchPins hp
  · exact hset lvl hi
  · exact rw_ne_led hvalid hled
  · exact rw_not_mem_transferPins hvalid htransfer

/-- Settles O56: the pins written are named by the instruction or among the nine. -/
theorem foreignPinsKept : Obligations.ForeignPinsKept := by
  unfold Obligations.ForeignPinsKept
  intro i s t p hvalid h hp hconfigure hset hfsel hacc
  refine ⟨exec_fieldOf hvalid h hfsel fun hmem => ?_, (exec_latchKept hvalid h hacc).latch fun hmem => ?_⟩
  · obtain ⟨pins, dir, hi⟩ | hall := mem_fieldPins hmem
    · exact hconfigure pins dir hi
    · exact hp hall
  · obtain ⟨lvl, hi⟩ | hled | htransfer := mem_latchPins hmem
    · exact hset _ lvl hi
    · exact hp (hled ▸ led_mem_all s.cfg.pins)
    · exact hp (transferPins_subset_all s.cfg.pins htransfer)

end Sys2Proof.Machine
end

section
/-!
PROOFS. The least times of the latch events of a byte (spec/41_lcd_transfer.md R166, spec/45_bus_receiver_view.md R270).
-/

namespace Sys2Proof.Machine

variable {c : Config} {d : Device}

/-- The times of two lists of events, the second after the first. -/
theorem latchTimes_append (c : Config) (es fs : List Event) :
    ∀ (t : Nat) (d : Device), latchTimes c t d (es ++ fs) = latchTimes c t d es ++ latchTimes c (t + elapsed es) (replay c d es) fs := by
  induction es with
  | nil => exact fun _ _ => rfl
  | cons e es ih =>
    intro t d
    cases e with
    | wr off v =>
      simp only [List.cons_append, latchTimes, elapsed, ih, replay, List.foldl_cons]
      split <;> rfl
    | rd | bar | log => exact ih t d
    | dly w =>
      rw [List.cons_append, latchTimes, ih, elapsed, Nat.add_assoc]
      rfl

theorem latchTimes_of_shows_nil {es : List Event} (h : Shows c d es []) (t : Nat) : latchTimes c t d es = [] := by
  rw [← List.length_eq_zero_iff, latchTimes_length, shows_nil_iff.1 h]
  rfl

theorem latchTimes_setEvents (h : c.valid = true) (p : Pin) (lvl : Bool) (t : Nat) (d : Device) :
    latchTimes c t d (setEvents c p lvl) = if p = c.pins.e ∧ lvl = false ∧ pad c d p = some true then [t] else [] := by
  rw [← if_congr (fallingE_setDevice c p lvl d) rfl rfl]
  simp only [setEvents, latchTimes, eventDevice, regAt_offsetOf c h]

/-- E falls 1000 microseconds after `LATCH()` starts (41 R165). -/
theorem latchTimes_latchEvents (h : c.valid = true) (hd : DisplayDriven c d) (t : Nat) :
    latchTimes c t d (latchEvents c) = [t + 1000] := by
  have he : c.pins.e ∈ c.pins.lcd := by simp [PinMap.lcd]
  have hraised : pad c (replay c d (setEvents c c.pins.e true)) c.pins.e = some true := by
    rw [replay_setEvents h, pad_setDevice, if_pos rfl, hd.pad_eq he, Option.map_some]
  have hsplit : latchEvents c = [.dly 500] ++ (setEvents c c.pins.e true ++ ([.dly 500] ++ (setEvents c c.pins.e false ++ [.dly 500]))) :=
    by simp [latchEvents]
  have hwait (t : Nat) (d : Device) : latchTimes c t d [.dly 500] = [] := rfl
  have hkeep (d : Device) : replay c d [.dly 500] = d := rfl
  have hset (p : Pin) (lvl : Bool) : elapsed (setEvents c p lvl) = 0 := rfl
  have hdelay : elapsed [.dly 500] = 500 := rfl
  rw [hsplit]
  simp only [latchTimes_append, latchTimes_setEvents h, hwait, hkeep, hset, hdelay, hraised]
  simp

/-- `LOAD(n); LATCH()`: no time passes in the load. -/
theorem latchTimes_nibble (h : c.valid = true) (hd : DisplayDriven c d) (n : Nibble) (t : Nat) :
    latchTimes c t d (loadEvents c n ++ latchEvents c) = [t + 1000] := by
  rw [latchTimes_append, latchTimes_of_shows_nil (loadEvents_shows h n d), elapsed_loadEvents,
    latchTimes_latchEvents h (hd.replay (loadEvents_writesOnly h n))]
  rfl

/-- The two falling edges of E in a transfer (41 R166). -/
theorem latchTimes_transmitEvents (h : c.valid = true) (hd : DisplayDriven c d) (b : Byte) (m : Mode) (t : Nat) :
    latchTimes c t d (transmitEvents c b m) = [t + 1000, t + 2500] := by
  have hmode := setEvents_writesOnly h (List.mem_singleton_self c.pins.rs) m.bit
  have hd₁ := hd.replay hmode
  have hsplit : transmitEvents c b m = setEvents c c.pins.rs m.bit ++
      ((loadEvents c (highNibble b) ++ latchEvents c) ++ (loadEvents c (lowNibble b) ++ latchEvents c)) := by
    simp only [transmitEvents, List.append_assoc]
  have hset : elapsed (setEvents c c.pins.rs m.bit) = 0 := rfl
  have hlatch : elapsed (latchEvents c) = 1500 := rfl
  rw [hsplit, latchTimes_append, latchTimes_of_shows_nil (setEvents_shows h (rs_ne_e h) m.bit d), hset, latchTimes_append,
    latchTimes_nibble h hd₁, latchTimes_nibble h (hd₁.replay (nibble_writesOnly h _)), elapsed_append, elapsed_loadEvents, hlatch]
  rfl

/-- Settles O25: the transfer accounts for its events, whose delays are counted. -/
theorem latchTimesOfByte : Obligations.LatchTimesOfByte := by
  unfold Obligations.LatchTimesOfByte
  intro b m s hvalid hrun hd
  obtain ⟨t, hexec, hacc⟩ := runOp_accounted hrun .transmit (transmitByte_accounted b m (beginOp .transmit s) rfl hvalid)
  exact ⟨t, _, hexec, hacc.trace, latchTimes_transmitEvents hvalid (lcdDriven_iff.1 hd) b m s.now, hacc.now,
    elapsed_transmitEvents s.cfg b m⟩

end Sys2Proof.Machine
end

section
/-!
PROOFS. The checks of a step and of an operation: power-on, what a presented word runs (spec/00_scope.md R19, spec/60_exceptions.md R293),
and the order of `LIFE`, `BUSY` and the operands (60 R287, R288).
-/

namespace Sys2Proof.Machine

variable {s t : State}

/-- Settles O1: `State.reset` gives each of these fields its value. -/
theorem powerOnState : Obligations.PowerOnState := ⟨rfl, rfl, rfl, rfl, rfl, rfl, rfl, rfl, by decide⟩

/-! ## Refusals of a busy block -/

theorem whenActive_of_busy (hlife : s.life = .active) (hbusy : s.busy = true) (k : Answer) : whenActive s k = .refused .busy := by
  simp [whenActive, hlife, hbusy]

/-- A busy block performs nothing that is presented to it (60 R288). -/
theorem perform_ne_next_of_busy (hbusy : s.busy = true) (i : Instr) (t : State) : perform i s ≠ .next t := by
  have hexec (u : State) : exec i s ≠ .next u := fun h => by simp [exec_not_busy h] at hbusy
  unfold perform
  cases s.grain with
  | operation => exact hexec t
  | position =>
    cases hwhole : exec i s with
    | next u => exact absurd hwhole (hexec u)
    | fault f => exact absurd hwhole (exec_ne_fault i s f)
    | refused r => simp [((launch_agrees i s).refused r).1 hwhole]

theorem takePresented_ne_next_of_busy (hbusy : s.busy = true) (w : Presented) (t : State) : takePresented w s ≠ .next t := by
  have hrefuse : refuseAccess s ≠ .next t := by
    rw [refuseAccess_eq]
    split_ifs <;> nofun
  cases hdecode : decode w with
  | ok r =>
    rw [takePresented_ok hdecode, performPresented]
    split_ifs
    · exact hrefuse
    · exact perform_ne_next_of_busy hbusy r.1 t
  | error e =>
    rw [takePresented_error hdecode, rejectWord]
    split_ifs
    · exact hrefuse
    · nofun

/-- Settles O7, by what a step does with a word that decodes, with one that does not, and with no word. -/
theorem stepRunsDecodedInstruction : Obligations.StepRunsDecodedInstruction := by
  unfold Obligations.StepRunsDecodedInstruction
  refine ⟨fun s w rest i left hport hdecode => ?_, fun s w rest e hport hdecode => ?_, fun s t w rest hbusy hport => ?_,
    fun s hport => ?_⟩
  · rw [step_of_presented hport, takePresented_ok hdecode, performPresented]
    refine ⟨fun hi hgrain => ?_, fun hi hgrain => ?_, fun hi => ?_⟩
    · rw [hi, perform, hgrain]; rfl
    · rw [hi, perform, hgrain]; rfl
    · rw [if_pos hi, refuseAccess_eq]
  · rw [step_of_presented hport, takePresented_error hdecode, rejectWord]
    refine ⟨fun he => ?_, fun he => if_neg he⟩
    rw [if_pos he, refuseAccess_eq]
  · rw [step_of_presented hport]
    exact takePresented_ne_next_of_busy (s := { s with port := rest }) hbusy w t
  · rw [step_of_silent hport, proceed]
    exact ⟨fun hbusy => if_pos hbusy, fun hbusy => if_neg (by simp [hbusy])⟩

/-! ## The order of the checks -/

theorem exec_of_busy {i : Instr} (hi : needsActive i = true) (hlife : s.life = .active) (hbusy : s.busy = true) :
    exec i s = .refused .busy := by
  obtain ⟨k, hk⟩ := exec_eq_whenActive hi s
  rw [hk, whenActive_of_busy hlife hbusy]

theorem deactivate_of_inactive_or_busy (h : s.life = .inactive ∨ s.busy = true) : exec .deactivate s = .refused .badLifecycle :=
  if_pos h

theorem activate_of_inactive_of_busy (hlife : s.life = .inactive) (hbusy : s.busy = true) (ok : Bool) :
    exec (.activate ok) s = .refused .busy := by
  simp [exec, execActivate, hlife, hbusy]

/-- Settles O52: every row but the two of the lifecycle makes the checks of `whenActive` first. -/
theorem checksInOrder : Obligations.ChecksInOrder := by
  unfold Obligations.ChecksInOrder
  refine ⟨fun i s hlife hi => exec_of_inactive hi hlife, fun i s hlife hbusy => ?_,
    fun s hlife => deactivate_of_inactive_or_busy (.inl hlife), fun ok s hlife hbusy => activate_of_inactive_of_busy hlife hbusy ok⟩
  cases i with
  | activate ok => exact activate_of_active hlife ok
  | deactivate => exact deactivate_of_inactive_or_busy (.inr hbusy)
  | _ => exact exec_of_busy rfl hlife hbusy

/-! ## DEACTIVATE -/

/-- Settles O38: the two checks pass, and the body writes `LIFE` and `READY`. -/
theorem deactivateEffect : Obligations.DeactivateEffect := by
  unfold Obligations.DeactivateEffect
  rintro s ⟨hlife, hbusy⟩
  exact if_neg (by simp [hlife, hbusy])

end Sys2Proof.Machine
end

section
/-!
PROOFS. The rows that are no operation, run by themselves: function-select codes (spec/30_encoding.md R91 to R94), the latch sample (R103),
the request and the response on the wire (R110 to R112); the bus words (R100, R106, R107), each a transfer of its byte.
-/

namespace Sys2Proof.Machine

variable {s t : State}

theorem evaluate_of_canRun (h : CanRun s) (r : Result) : evaluate r s = .next { s with result := r } := whenActive_of_canRun h _

/-- Settles O47: an admissible output code is not the code of an input. -/
theorem functionCodesEvaluated : Obligations.FunctionCodesEvaluated := by
  unfold Obligations.FunctionCodesEvaluated
  intro s hvalid hrun
  have hcode (code : BitVec 3) (f : PinFunction) (h : functionOf s.cfg code = f) :
      fselCode code s = .next { s with result := .function f } := by
    rw [fselCode, evaluate_of_canRun hrun, h]
  refine ⟨hcode _ _ (by simp [functionOf]), hcode _ _ (functionOf_fselOutput hvalid), ?_⟩
  have halt {code : BitVec 3} (h : code ≠ fselInputCode) :
      fselCode code s = .next { s with result := .function (if code = s.cfg.fselOutput then .output else .alternate) } :=
    hcode _ _ (if_neg h)
  simp only [List.forall_mem_cons, List.not_mem_nil, false_imp_iff, implies_true, and_true]
  exact ⟨halt (by decide), halt (by decide), halt (by decide), halt (by decide), halt (by decide), halt (by decide)⟩

/-- Settles O48: the place of a pin is computed from its number. -/
theorem placementAndPinBitEvaluated : Obligations.PlacementAndPinBitEvaluated := by
  unfold Obligations.PlacementAndPinBitEvaluated
  refine ⟨fun p code s hrun => ⟨?_, ?_⟩, fun p code s hrun hp => ⟨?_, ?_⟩⟩
  · simp only [exec, execFselPlace, pinOf?_val]
    exact evaluate_of_canRun hrun _
  · simp only [exec, execPinBit, pinOf?_val]
    exact evaluate_of_canRun hrun _
  · simp only [exec, execFselPlace, pinOf?_eq_none hp]
    exact whenActive_of_canRun hrun _
  · simp only [exec, execPinBit, pinOf?_eq_none hp]
    exact whenActive_of_canRun hrun _

/-- Settles O50: the ten bytes are written out, and the cut is matched. -/
theorem wireRowsEvaluated : Obligations.WireRowsEvaluated := by
  unfold Obligations.WireRowsEvaluated
  refine fun s hrun => ⟨fun d => ?_, fun bytes => evaluate_of_canRun hrun _⟩
  exact evaluate_of_canRun hrun _

theorem padOrFree_eq (c : Config) (d : Device) (free : BitVec 64) (p : Pin) :
    padOrFree c d free p = if pinFunction c d p = .output then latchBit d p else free.getLsbD p.val := by
  rw [padOrFree, pad]
  cases pinFunction c d p <;> rfl

/-- The bits of a sample, in the order `rs ++ rw ++ d7 ++ d6 ++ d5 ++ d4` (30 R103). -/
theorem getLsbD_nibBits (l : Latch) :
    (nibBits l).getLsbD 5 = l.rs ∧ (nibBits l).getLsbD 4 = l.rw ∧ ∀ i < 4, (nibBits l).getLsbD i = l.nibble.getLsbD i := by
  refine ⟨?_, ?_, fun i hi => ?_⟩
  · rw [nibBits, BitVec.getLsbD_cons, if_pos rfl]
  · rw [nibBits, BitVec.getLsbD_cons, if_neg (by decide), BitVec.getLsbD_cons, if_pos rfl]
  · rw [nibBits, BitVec.getLsbD_cons, if_neg (by omega), BitVec.getLsbD_cons, if_neg (by omega)]

/-- What the row `LATCH.SAMPLE` leaves (30 R103). -/
theorem exec_latchSample_of_canRun (h : CanRun s) :
    exec .latchSample s = .next { s with
      result := .sample (nibBits (latchOf s.cfg s.dev (Config.freeLevel s.draws))), draws := s.draws + 1 } :=
  whenActive_of_canRun h _

/-- The bits of the sample of a device, by their pins. -/
theorem getLsbD_nibBits_latchOf (c : Config) (d : Device) (free : BitVec 64) :
    ∀ r ∈ [(c.pins.rs, 5), (c.pins.rw, 4), (c.pins.d7, 3), (c.pins.d6, 2), (c.pins.d5, 1), (c.pins.d4, 0)],
      (nibBits (latchOf c d free)).getLsbD r.2 = padOrFree c d free r.1 := by
  obtain ⟨hrs, hrw, hnibble⟩ := getLsbD_nibBits (latchOf c d free)
  have hdata (i : Nat) (hi : i < 4) : (nibBits (latchOf c d free)).getLsbD i = padOrFree c d free (dpin c.pins i) := by
    rw [hnibble i hi, latchOf, getLsbD_bitsOf _ hi]
  simp only [List.forall_mem_cons, List.not_mem_nil, false_imp_iff, implies_true, and_true]
  exact ⟨hrs, hrw, hdata 3 (by omega), hdata 2 (by omega), hdata 1 (by omega), hdata 0 (by omega)⟩

/-- Settles O49: each bit of the sample is a pad, in the order of R103. -/
theorem latchSampleEvaluated : Obligations.LatchSampleEvaluated := by
  unfold Obligations.LatchSampleEvaluated
  intro s hrun
  exact ⟨_, exec_latchSample_of_canRun hrun, fun r hr => (getLsbD_nibBits_latchOf s.cfg s.dev _ r hr).trans (padOrFree_eq s.cfg s.dev _ r.1)⟩

/-- What a whole operation does is the same whatever name it runs under. -/
theorem runOp_transmitByte (op : OpName) (b : Byte) (m : Mode) (s : State) :
    runOp op (transmitByte b m) s = runOp .transmit (transmitByte b m) s := by
  have hname : beginOp op s = place { Seq.idle with op := op } s.arg (beginOp .transmit s) := rfl
  have hover (q : Seq) (u : State) : finish (place q s.arg u) = finish u := rfl
  rw [runOp, hname, place_transmitByte, hover, ← runOp]

/-- Settles O24: each of these rows is the transfer of its byte, under its own name in `SEQ`. -/
theorem busWordsAreTransmits : Obligations.BusWordsAreTransmits := by
  unfold Obligations.BusWordsAreTransmits
  intro b s hrun
  have hrow {i : Instr} {op : OpName} {b : Byte} {m : Mode} (hi : exec i s = runOp op (transmitByte b m) s) :
      ∃ t : State, exec i s = .next t ∧ exec (.transmit b m) s = .next t :=
    ⟨_, hi.trans ((runOp_transmitByte op b m s).trans (runOp_of_canRun hrun _ _)), runOp_of_canRun hrun _ _⟩
  refine ⟨?_, _, (runOp_transmitByte .writeChar b .character s).trans (runOp_of_canRun hrun _ _), runOp_of_canRun hrun _ _,
    runOp_of_canRun hrun _ _⟩
  unfold commandRows
  simp only [List.forall_mem_cons, List.not_mem_nil, false_imp_iff, implies_true, and_true]
  exact ⟨hrow rfl, hrow rfl, hrow rfl, hrow rfl, hrow rfl, hrow rfl, hrow rfl, hrow rfl, hrow rfl⟩

end Sys2Proof.Machine
end

section
/-!
PROOFS. `READY` over a whole operation (spec/10_state.md R31, R36), and what the external levels reach (R36, row `EXT`).
-/

namespace Sys2Proof.Machine

variable {s t : State}

/-! ## READY -/

theorem PinFrame.ready (h : PinFrame s t) : t.ready = s.ready := by rw [h]

theorem transmitByte_ready (b : Byte) (m : Mode) (s : State) : (transmitByte b m s).ready = s.ready :=
  (transmitByte_frame b m s).ready

theorem initBody_ready (s : State) : (initBody s).ready = true := by rw [initBody_eq]

theorem textBody_ready {text : List Byte} (hlen : text.length ≤ maxText) (s : State) : (textBody text s).ready = s.ready := by
  rw [textBody_eq hlen]

theorem renderBody_ready {text : List Byte} (hlen : text.length ≤ maxText) (s : State) : (renderBody text s).ready = true := by
  rw [renderBody_eq hlen]

theorem writeReqBody_ready (bytes : List Byte) (s : State) : (writeReqBody bytes s).ready = ((acceptedText bytes).isSome || s.ready) := by
  cases htext : acceptedText bytes with
  | none => rw [writeReqBody_of_rejected htext]; rfl
  | some text =>
    rw [writeReqBody_of_accepted htext]
    exact renderBody_ready (acceptedText_length htext) _

theorem readReqBody_ready (s : State) : (readReqBody s).ready = s.ready := by
  rw [readReqBody, readPin_eq]
  rfl

theorem readPinResult_ready (p : Pin) (s : State) : (readPinResult p s).ready = s.ready := by
  rw [readPinResult, readPin_eq]

theorem runOp_ready {op : OpName} {body : State → State} (hbody : ∀ u, (body u).ready = u.ready) (h : runOp op body s = .next t) :
    t.ready = s.ready := by
  obtain ⟨-, h⟩ := whenActive_next h
  cases h
  exact hbody (beginOp op s)

theorem runPinOp_ready {op : OpName} {p : Nat} {body : Pin → State → State} (hbody : ∀ q u, (body q u).ready = u.ready)
    (h : runPinOp op p body s = .next t) : t.ready = s.ready := by
  obtain ⟨-, h⟩ := whenActive_next h
  split at h <;> cases h
  exact hbody _ (beginOp op s)

/-- The instructions that write `READY` (10 R31, R36). -/
def writesReady : Instr → Bool
  | .init | .render _ _ | .writeReq _ | .activate _ | .deactivate => true
  | .configure _ _ | .set _ _ | .read _ | .transmit _ _ | .writeCommand _ | .writeChar _ | .writeText _ _ | .configureAll
  | .ledSet _ | .buttonRead | .readReq | .lcdCommand _ | .lcdChar _ | .init0 | .init1 | .init2 | .init3 | .init4 | .init5
  | .notSent28 | .gpfsel0 _ | .gpfsel1 _ | .gpfsel2 _ | .gpfsel3 _ | .gpfsel4 _ | .gpfsel5 _ | .gpset0 _ | .gpset1 _
  | .gpclr0 _ | .gpclr1 _ | .gplev0 _ | .gplev1 _ | .fselInput | .fselOutput | .fselAlt2 | .fselAlt3 | .fselAlt4
  | .fselAlt5 | .fselAlt6 | .fselAlt7 | .fselPlace _ _ | .pinBit _ | .latchSample | .wireReadResp _ | .wireWriteReq _ => false

/-- An instruction that does not write `READY` leaves it. -/
theorem exec_ready {i : Instr} (hi : writesReady i = false) (h : exec i s = .next t) : t.ready = s.ready := by
  cases i with
  | init | render | writeReq | activate | deactivate => cases hi
  | transmit | writeCommand | writeChar | lcdCommand | lcdChar | init0 | init1 | init2 | init3 | init4 | init5 | notSent28 =>
    exact runOp_ready (transmitByte_ready _ _) h
  | configureAll => exact runOp_ready (fun u => (configureAllBody_frame u).ready) h
  | ledSet lvl => exact runOp_ready (fun u => (setPin_frame u.cfg.pins.led lvl u).ready) h
  | buttonRead => exact runOp_ready (fun u => readPinResult_ready u.cfg.pins.button u) h
  | readReq => exact runOp_ready readReqBody_ready h
  | set p lvl => exact runPinOp_ready (fun q u => (setPin_frame q lvl u).ready) h
  | read p => exact runPinOp_ready readPinResult_ready h
  | configure pins dir =>
    obtain ⟨-, h⟩ := whenActive_next h
    split at h <;> cases h
    exact (configurePins_frame _ dir (beginOp .configure s)).ready
  | writeText x n =>
    obtain ⟨-, h⟩ := whenActive_next h
    split at h
    · next htext =>
      cases h
      exact textBody_ready (textOf?_length htext) (beginOp .writeText s)
    · cases h
  | gpfsel0 | gpfsel1 | gpfsel2 | gpfsel3 | gpfsel4 | gpfsel5 | gpset0 | gpset1 | gpclr0 | gpclr1 | gplev0 | gplev1 =>
    obtain ⟨-, h⟩ := whenActive_next h
    unfold accessReg at h
    split at h <;> cases h <;> rfl
  | fselPlace | pinBit =>
    simp only [exec, execFselPlace, execPinBit] at h
    split at h
    · cases (whenActive_next h).2
      rfl
    · cases (whenActive_next h).2
  | fselInput | fselOutput | fselAlt2 | fselAlt3 | fselAlt4 | fselAlt5 | fselAlt6 | fselAlt7 | latchSample | wireReadResp
  | wireWriteReq =>
    cases (whenActive_next h).2
    rfl

/-- Settles O57: of the five that write `READY`, three leave it set where they change it, and the lifecycle leaves it clear. -/
theorem readyWrittenOnlyByInitAndLifecycle : Obligations.ReadyWrittenOnlyByInitAndLifecycle := by
  unfold Obligations.ReadyWrittenOnlyByInitAndLifecycle
  intro i s t h hne
  cases hi : writesReady i with
  | false => exact absurd (exec_ready hi h) hne
  | true =>
    cases i with
    | init =>
      cases (whenActive_next h).2
      exact .inl ⟨rfl, initBody_ready (beginOp .init s)⟩
    | render x n =>
      obtain ⟨-, h⟩ := whenActive_next h
      split at h
      · next htext =>
        cases h
        exact .inr (.inl ⟨x, n, rfl, renderBody_ready (textOf?_length htext) (beginOp .render s)⟩)
      · cases h
    | writeReq bytes =>
      cases (whenActive_next h).2
      have hready : (writeReqBody bytes (beginOp .writeReq s)).ready = ((acceptedText bytes).isSome || s.ready) :=
        writeReqBody_ready bytes _
      cases htext : (acceptedText bytes).isSome with
      | false => exact absurd (hready.trans (by rw [htext, Bool.false_or])) hne
      | true => exact .inr (.inr (.inl ⟨bytes, rfl, hready.trans (by rw [htext, Bool.true_or])⟩))
    | activate ok =>
      obtain rfl := activate_next h
      cases ok with
      | false => exact absurd rfl hne
      | true => exact .inr (.inr (.inr (.inl ⟨rfl, (configureAllBody_frame (activating s)).ready⟩)))
    | deactivate =>
      obtain rfl := deactivate_next h
      exact .inr (.inr (.inr (.inr ⟨rfl, rfl⟩)))
    | _ => cases hi

/-! ## The external levels -/

theorem whenActive_setExt (ext : List (BitVec 54)) {k k' : Answer} (h : k' = mapNext (setExt ext) k) (s : State) :
    whenActive (setExt ext s) k' = mapNext (setExt ext) (whenActive s k) := by
  subst h
  show (if s.life = .inactive then _ else if s.busy then _ else _) = _
  unfold whenActive
  split_ifs <;> rfl

theorem runOp_setExt (ext : List (BitVec 54)) {body : State → State} (hbody : ∀ u, body (setExt ext u) = setExt ext (body u))
    (op : OpName) (s : State) : runOp op body (setExt ext s) = mapNext (setExt ext) (runOp op body s) :=
  whenActive_setExt ext (congrArg (fun u => Host.Outcome.next (finish u)) (hbody (beginOp op s))) s

theorem configure_setExt (ext : List (BitVec 54)) (pins : List Nat) (dir : PinDirection) (s : State) :
    execConfigure pins dir (setExt ext s) = mapNext (setExt ext) (execConfigure pins dir s) := by
  refine whenActive_setExt ext ?_ s
  cases pinsOf? pins with
  | none => rfl
  | some ps => exact congrArg (fun u => Host.Outcome.next (finish u)) ((unseen_setExt ext).configurePins ps dir (beginOp .configure s))

theorem runPinOp_setExt (ext : List (BitVec 54)) {body : Pin → State → State}
    (hbody : ∀ q u, body q (setExt ext u) = setExt ext (body q u)) (op : OpName) (p : Nat) (s : State) :
    runPinOp op p body (setExt ext s) = mapNext (setExt ext) (runPinOp op p body s) := by
  refine whenActive_setExt ext ?_ s
  cases pinOf? p with
  | none => rfl
  | some q => exact congrArg (fun u => Host.Outcome.next (finish u)) (hbody q (beginOp op s))

theorem runTextOp_setExt (ext : List (BitVec 54)) {body : List Byte → State → State}
    (hbody : ∀ x u, body x (setExt ext u) = setExt ext (body x u)) (op : OpName) (x : List Byte) (n : Nat) (s : State) :
    runTextOp op x n body (setExt ext s) = mapNext (setExt ext) (runTextOp op x n body s) := by
  refine whenActive_setExt ext ?_ s
  cases textOf? x n with
  | none => rfl
  | some text => exact congrArg (fun u => Host.Outcome.next (finish u)) (hbody text (beginOp op s))

theorem writeReqBody_setExt (ext : List (BitVec 54)) (bytes : List Byte) (s : State) :
    writeReqBody bytes (setExt ext s) = setExt ext (writeReqBody bytes s) := by
  cases htext : acceptedText bytes with
  | none => rw [writeReqBody_of_rejected htext, writeReqBody_of_rejected htext]; rfl
  | some text =>
    have hrender := (unseen_setExt ext).renderBody text (storeRequest bytes s)
    rw [writeReqBody_of_accepted htext, writeReqBody_of_accepted htext]
    exact congrArg (fun u => { u with result := .count bytes.length }) hrender

theorem activate_setExt (ext : List (BitVec 54)) (ok : Bool) (s : State) :
    execActivate ok (setExt ext s) = mapNext (setExt ext) (execActivate ok s) := by
  have hbody := (unseen_setExt ext).configureAllBody (activating s)
  have hdone : activateBody (beginOp .activate (setExt ext s)) = setExt ext (activateBody (beginOp .activate s)) :=
    congrArg (fun u => { u with result := .ok }) hbody
  unfold execActivate
  rw [hdone]
  show (if s.life = .active then _ else if s.busy then _ else if ok then _ else _) = _
  split_ifs <;> rfl

theorem deactivate_setExt (ext : List (BitVec 54)) (s : State) :
    execDeactivate (setExt ext s) = mapNext (setExt ext) (execDeactivate s) := by
  unfold execDeactivate
  show (if s.life = .inactive ∨ s.busy = true then _ else _) = _
  split_ifs <;> rfl

theorem evaluate_setExt (ext : List (BitVec 54)) (r : Result) (s : State) :
    evaluate r (setExt ext s) = mapNext (setExt ext) (evaluate r s) :=
  whenActive_setExt ext (k := .next { s with result := r }) rfl s

theorem execAccess_setExt (ext : List (BitVec 54)) {r : Reg} (hr : ∀ j, r ≠ .lev j) (a : Access) (s : State) :
    execAccess r a (setExt ext s) = mapNext (setExt ext) (execAccess r a s) := by
  refine whenActive_setExt ext ?_ s
  cases r with
  | lev j => exact absurd rfl (hr j)
  | fsel | set | clr => cases a <;> rfl

/-- An instruction that reads no level register does not see the external levels (10 R36, row `EXT`). -/
theorem exec_setExt {i : Instr} (hi : readsLevels i = false) (ext : List (BitVec 54)) (s : State) :
    exec i (setExt ext s) = mapNext (setExt ext) (exec i s) := by
  have hu := unseen_setExt ext
  cases i with
  | read | buttonRead | readReq | gplev0 | gplev1 => cases hi
  | transmit | writeCommand | writeChar | lcdCommand | lcdChar | init0 | init1 | init2 | init3 | init4 | init5 | notSent28 =>
    exact runOp_setExt ext (hu.transmitByte _ _) _ s
  | init => exact runOp_setExt ext hu.initBody _ s
  | configureAll => exact runOp_setExt ext hu.configureAllBody _ s
  | ledSet lvl => exact runOp_setExt ext (body := fun u => setPin u.cfg.pins.led lvl u) (fun u => hu.setPin u.cfg.pins.led lvl u) _ s
  | writeReq bytes =>
    exact runOp_setExt ext (body := fun u => dropRequest (writeReqBody bytes u))
      (fun u => congrArg dropRequest (writeReqBody_setExt ext bytes u)) _ s
  | configure pins dir => exact configure_setExt ext pins dir s
  | set p lvl => exact runPinOp_setExt ext (fun q => hu.setPin q lvl) _ p s
  | writeText x n => exact runTextOp_setExt ext hu.textBody _ x n s
  | render x n => exact runTextOp_setExt ext hu.renderBody _ x n s
  | activate ok => exact activate_setExt ext ok s
  | deactivate => exact deactivate_setExt ext s
  | gpfsel0 | gpfsel1 | gpfsel2 | gpfsel3 | gpfsel4 | gpfsel5 | gpset0 | gpset1 | gpclr0 | gpclr1 =>
    exact execAccess_setExt ext (fun _ => Reg.noConfusion) _ s
  | fselPlace p code =>
    simp only [exec, execFselPlace]
    cases pinOf? p with
    | none => exact whenActive_setExt ext (k := .refused .invalidPin) rfl s
    | some q => exact evaluate_setExt ext _ s
  | pinBit p =>
    simp only [exec, execPinBit]
    cases pinOf? p with
    | none => exact whenActive_setExt ext (k := .refused .invalidPin) rfl s
    | some q => exact evaluate_setExt ext _ s
  | latchSample =>
    exact whenActive_setExt ext (k := .next { s with
      result := .sample (nibBits (latchOf s.cfg s.dev (Config.freeLevel s.draws))), draws := s.draws + 1 }) rfl s
  | fselInput | fselOutput | fselAlt2 | fselAlt3 | fselAlt4 | fselAlt5 | fselAlt6 | fselAlt7 | wireReadResp | wireWriteReq =>
    exact evaluate_setExt ext _ s

/-- Settles O58: replacing the external levels commutes with every such instruction. -/
theorem externalLevelsReachOnlyReads : Obligations.ExternalLevelsReachOnlyReads := by
  unfold Obligations.ExternalLevelsReachOnlyReads
  exact fun i s ext hi => exec_setExt hi ext s

end Sys2Proof.Machine
end

section
/-!
PROOFS. The requests of the host (spec/44_command_channel.md R245 to R253, spec/30_encoding.md R110 to R112): what `REQ` and `RESP` hold, what is
accepted, and what an accepted and a rejected `WRITE_REQ` do.
-/

namespace Sys2Proof.Machine

variable {s t : State} {bytes text : List Byte}

/-! ## The buffers of a request and of a response -/

/-- Bytes written from the first cell on are read back in the first cells. -/
theorem take_toList_writeCells {n : Nat} (v : Vector Byte n) {bs : List Byte} (h : bs.length ≤ n) :
    (writeCells v 0 bs).toList.take bs.length = bs := by
  rw [writeCells_toList bs v 0 (by omega), List.take_zero, List.nil_append, List.take_left]

theorem getElem_emptyReq (i : Fin 32) : emptyReq[i] = 0 := by
  revert i
  decide

/-- `REQ` as a request stores it: its first 32 bytes, zeros above (44 R250). -/
theorem getElem_storeRequest_req (bytes : List Byte) (s : State) (i : Fin 32) :
    (storeRequest bytes s).req[i] = if i.val < bytes.length then bytes.getD i.val 0 else 0 := by
  have hcell := getElem_writeCells emptyReq (bs := bytes.take reqBuf) (List.length_take_le _ _) i.isLt
  refine hcell.trans ?_
  have hi : i.val < reqBuf := i.isLt
  simp only [List.length_take, Nat.lt_min, hi, true_and]
  split
  · rw [List.getD_eq_getElem?_getD, List.getD_eq_getElem?_getD, List.getElem?_take_of_lt hi]
  · exact getElem_emptyReq i

/-- The cut is the front of what is stored (30 R112). -/
theorem cutRequest_prefix (bytes : List Byte) : cutRequest bytes <+: bytes.take reqBuf := List.takeWhile_prefix _

/-- `REQ[0..REQLEN-1]` is the cut (30 R112, 44 R250). -/
theorem take_storeRequest_req (bytes : List Byte) (s : State) :
    (storeRequest bytes s).req.toList.take (storeRequest bytes s).reqLen = cutRequest bytes := by
  have hlen : (bytes.take reqBuf).length ≤ 32 := List.length_take_le _ _
  have hstored := take_toList_writeCells emptyReq hlen
  have hfront := (cutRequest_prefix bytes).trans (hstored ▸ List.take_prefix _ _)
  exact (List.prefix_iff_eq_take.1 hfront).symm

/-- `RESP[0..RESPLEN-1]` is the response (44 R245). -/
theorem take_storeResponse_resp (d : Bool) (s : State) :
    (storeResponse d s).resp.toList.take (storeResponse d s).respLen = responseBytes d := by
  have hlen : (responseBytes d).length ≤ 16 := by simp [responseBytes]
  exact take_toList_writeCells emptyResp hlen

/-! ## READ_REQ -/

theorem exec_readReq_of_canRun (hrun : CanRun s) : exec .readReq s = .next (finish (readReqBody (beginOp .readReq s))) :=
  runOp_of_canRun hrun .readReq readReqBody

/-- Settles O39: the level read appends its two events, and the response ends with its request. -/
theorem readReqEffect : Obligations.ReadReqEffect := by
  unfold Obligations.ReadReqEffect
  intro s hrun
  refine ⟨_, pinLevelNow s.cfg.pins.button s, exec_readReq_of_canRun hrun, rfl, rfl, storeResponse_respLen _ s, ?_, ?_⟩
  · rw [take_storeResponse_resp]
    rfl
  · rw [readReqBody, readPin_eq]
    rfl

/-! ## Which requests are accepted -/

theorem acceptedText_eq_some_iff :
    acceptedText bytes = some text ↔
      ∃ token n, parseRequest (cutRequest bytes) = some (token, n) ∧ n ≤ token.length ∧ n ≤ maxText ∧ text = token.take n := by
  unfold acceptedText
  cases parseRequest (cutRequest bytes) with
  | none => simp
  | some r =>
    simp only [Option.ite_none_right_eq_some, Option.some.injEq]
    constructor
    · rintro ⟨⟨hlen, hmax⟩, rfl⟩
      exact ⟨r.1, r.2, rfl, hlen, hmax, rfl⟩
    · rintro ⟨token, n, rfl, hlen, hmax, rfl⟩
      exact ⟨⟨hlen, hmax⟩, rfl⟩

/-- Settles O44: the parser accepts exactly the grammar (`requestGrammar`), and the length is checked against its bounds. -/
theorem requestValidation : Obligations.RequestValidation := by
  unfold Obligations.RequestValidation
  intro bytes text
  rw [acceptedText_eq_some_iff]
  constructor
  · rintro ⟨token, n, hparse, hlen, hmax, rfl⟩
    obtain ⟨digits, hform, rfl⟩ := (requestGrammar _ _ _).1 hparse
    exact ⟨token, digits, hform, hlen, hmax, rfl⟩
  · rintro ⟨token, digits, hform, hlen, hmax, rfl⟩
    exact ⟨token, _, (requestGrammar _ _ _).2 ⟨digits, hform, rfl⟩, hlen, hmax, rfl⟩

/-! ## WRITE_REQ -/

/-- An accepted request by positions: it stands at its first phase with the request stored (44 R250, 70 R335). -/
theorem launch_writeReq_accepted (hrun : CanRun s) (h : acceptedText bytes = some text) :
    launch (.writeReq bytes) s = .next (enterRender bytes (storeRequest bytes (beginOp .writeReq s))) := by
  simp only [launch, h]
  exact whenActive_of_canRun hrun _

/-- `RENDER` inside an accepted request is `RENDER` run by itself, but for the request stored and the name in `SEQ`. -/
theorem renderBody_storeRequest (bytes text : List Byte) (s : State) :
    renderBody text (storeRequest bytes (beginOp .writeReq s)) =
      storeRequest bytes (place { Seq.idle with op := .writeReq } s.arg (renderBody text (beginOp .render s))) := by
  have hname : beginOp .writeReq s = place { Seq.idle with op := .writeReq } s.arg (beginOp .render s) := rfl
  rw [hname, (unseen_storeRequest bytes).renderBody, (unseen_place _ _).renderBody]

theorem exec_render_of_canRun (hrun : CanRun s) (hlen : text.length ≤ maxText) :
    exec (.render text text.length) s = .next (finish (renderBody text (beginOp .render s))) := by
  have hwhole := runTextOp_of_canRun hrun .render (Nat.le_refl text.length) hlen renderBody
  rw [List.take_length] at hwhole
  exact hwhole

/-- An accepted request ends in the state `RENDER` of its text ends in, but for its result (44 R250, R253). -/
theorem finish_writeReq_accepted (h : acceptedText bytes = some text) (s : State) :
    finish (dropRequest (writeReqBody bytes (beginOp .writeReq s))) =
      { finish (renderBody text (beginOp .render s)) with req := emptyReq, reqLen := 0, result := .count bytes.length } := by
  rw [writeReqBody_of_accepted h, renderBody_storeRequest]
  rfl

/-- Settles O40: the whole operation is `RENDER` of the text with the request stored; its first position holds the request. -/
theorem writeReqAccepted : Obligations.WriteReqAccepted := by
  unfold Obligations.WriteReqAccepted
  intro bytes text s hvalid hrun htext
  have hlen := acceptedText_length htext
  have hacc := renderBody_accounted hvalid hlen (beginOp .render s) rfl
  refine ⟨⟨_, _, exec_writeReq_of_canRun hrun bytes, exec_render_of_canRun hrun hlen, ?_, finish_writeReq_accepted htext s⟩,
    _, launch_writeReq_accepted hrun htext, rfl, rfl, rfl, getElem_storeRequest_req bytes (beginOp .writeReq s), rfl,
    take_storeRequest_req bytes (beginOp .writeReq s)⟩
  rw [finish_writeReq_accepted htext]
  exact hacc.trace

/-- Settles O41: a rejected request is absorbed with one diagnostic. -/
theorem writeReqRejected : Obligations.WriteReqRejected := by
  unfold Obligations.WriteReqRejected
  intro bytes s hrun htext
  rw [exec_writeReq_of_canRun hrun, writeReqBody_of_rejected htext]
  rfl

theorem zero_notMem_cutRequest (bytes : List Byte) : (0 : Byte) ∉ cutRequest bytes := fun h => by
  simpa using List.mem_takeWhile_imp h

/-- What follows the cut is nothing, or starts with the first 0x00 (30 R112). -/
theorem eq_nil_or_head?_eq_zero (bs : List Byte) :
    bs.dropWhile (fun b => b != 0) = [] ∨ (bs.dropWhile (fun b => b != 0)).head? = some 0 := by
  cases hrest : bs.dropWhile (fun b => b != 0) with
  | nil => exact .inl rfl
  | cons b rest =>
    have hb := head?_dropWhile_eq_false (p := fun b => b != 0) (bs := bs) b (by rw [hrest]; rfl)
    obtain rfl : b = 0 := by simpa using hb
    exact .inr rfl

/-- Settles O45: the cut is the part before the first 0x00 of the first 32 bytes, and the rest is what follows it. -/
theorem requestCut : Obligations.RequestCut := by
  unfold Obligations.RequestCut
  intro bytes s hrun
  refine ⟨cutRequest bytes, (bytes.take reqBuf).dropWhile (fun b => b != 0), List.takeWhile_append_dropWhile.symm,
    zero_notMem_cutRequest bytes, eq_nil_or_head?_eq_zero _, rfl, take_storeRequest_req bytes s, getElem_storeRequest_req bytes s,
    ⟨_, evaluate_of_canRun hrun _, rfl⟩, fun hnone => ?_, fun text htext => ?_⟩
  · obtain ⟨t, hexec, htrace, -⟩ := exec_writeReq_rejected hrun hnone
    exact ⟨t, hexec, htrace⟩
  · obtain ⟨token, n, hparse, -, -, htake⟩ := acceptedText_eq_some_iff.1 htext
    exact ⟨_, n, launch_writeReq_accepted hrun htext, rfl, take_storeRequest_req bytes (beginOp .writeReq s), token, hparse, htake⟩

end Sys2Proof.Machine
end
